-- ==== Sys2Proof/Word.lean ====
section
/-! DEFINITION. The word types of the block. -/

namespace Sys2Proof

/-- A 32-bit word: a virtual mask (`VBITS = 32`, R9), a device register (`REGW = 32`, R53), a
duration operand (R82) or a counter value (R171). -/
abbrev Word := BitVec 32

/-- A 64-bit command word (R80). -/
abbrev CmdWord := BitVec 64

/-- One byte of a command word in transport (R63) or of the identification file. -/
abbrev Byte := BitVec 8

end Sys2Proof
end

