-- ==== Sys2Proof/Syntax.lean ====
section
/-! DEFINITION. The commands of R83, one constructor for each row of the opcode table. -/

namespace Sys2Proof

/-- A command with its operands (R82, R83). The operand widths of R81 are in the types, so every
term is a well-formed command. -/
inductive Instr where
  /-- INIT (R102). -/
  | init
  /-- INIT_OUTPUTS, a virtual mask (R131). -/
  | initOutputs (mask : Word)
  /-- REQUEST_INPUTS, a virtual mask (R132). -/
  | requestInputs (mask : Word)
  /-- READ_ALL (R133). -/
  | readAll
  /-- SET_BITS, a virtual mask (R134). -/
  | setBits (mask : Word)
  /-- CLEAR_BITS, a virtual mask (R135). -/
  | clearBits (mask : Word)
  /-- FLUSH (R139). -/
  | flush
  /-- TIMER_INIT (R172). -/
  | timerInit
  /-- SLEEP_NANOS, a duration in nanoseconds (R178). -/
  | sleepNanos (ns : Word)
  /-- JITTER_ALLOWANCE (R181). -/
  | jitterAllowance
  /-- PULSER_ACQUIRE, a count of widths and a line mask (R200). -/
  | pulserAcquire (count : BitVec 8) (mask : Word)
  /-- PULSER_SET_WIDTH, an entry index and a width in nanoseconds (R201). -/
  | pulserSetWidth (idx : BitVec 8) (ns : Word)
  /-- SEND_PULSE, an entry index (R202). -/
  | sendPulse (idx : BitVec 8)
deriving DecidableEq, Repr

end Sys2Proof
end

