-- ==== Sys2Proof/Decode.lean ====
section
/-! DEFINITION. The command encoding of 30_encoding.md: fields, opcode map, decoder, encoder and the
little-endian transport of a command word as bytes. -/

namespace Sys2Proof

/-- The four formats of R84 (`CMD64-N`, `CMD64-M`, `CMD64-IM`, `CMD64-I`). -/
inductive Format where
  | n
  | m
  | im
  | i
deriving DecidableEq, Repr

/-- Why a word is ILLEGAL (R85): an unassigned `op`, or a field that R84 requires to be zero is not. -/
inductive Illegal where
  | unassignedOpcode
  | reservedNotZero
deriving DecidableEq, Repr

/-- The answer of the decoder (R85). -/
inductive Decoded where
  | command (i : Instr)
  | illegal (why : Illegal)
deriving DecidableEq, Repr

/-- `W[7:0]` (R81). -/
def opField (w : CmdWord) : BitVec 8 := w.extractLsb' 0 8

/-- `W[15:8]` (R81). -/
def idxField (w : CmdWord) : BitVec 8 := w.extractLsb' 8 8

/-- `W[31:16]` (R81). -/
def rsvField (w : CmdWord) : BitVec 16 := w.extractLsb' 16 16

/-- `W[63:32]` (R81). -/
def argField (w : CmdWord) : Word := w.extractLsb' 32 32

/-- The opcode map of R83, with the format of R84 for each `op`; `none` for a reserved value (R86). -/
def formatOf (op : BitVec 8) : Option Format :=
  match op.toNat with
  | 0x01 | 0x04 | 0x07 | 0x10 | 0x12 => some .n
  | 0x02 | 0x03 | 0x05 | 0x06 | 0x11 => some .m
  | 0x20 | 0x21 => some .im
  | 0x22 => some .i
  | _ => none

/-- The command an assigned `op` selects, with its operands (R82, R83). -/
def commandOf (op idx : BitVec 8) (arg : Word) : Option Instr :=
  match op.toNat with
  | 0x01 => some .init
  | 0x02 => some (.initOutputs arg)
  | 0x03 => some (.requestInputs arg)
  | 0x04 => some .readAll
  | 0x05 => some (.setBits arg)
  | 0x06 => some (.clearBits arg)
  | 0x07 => some .flush
  | 0x10 => some .timerInit
  | 0x11 => some (.sleepNanos arg)
  | 0x12 => some .jitterAllowance
  | 0x20 => some (.pulserAcquire idx arg)
  | 0x21 => some (.pulserSetWidth idx arg)
  | 0x22 => some (.sendPulse idx)
  | _ => none

/-- The fields a format requires to be zero are zero (R84). -/
def Format.fits (f : Format) (w : CmdWord) : Bool :=
  match f with
  | .n => idxField w == 0#8 && rsvField w == 0#16 && argField w == 0#32
  | .m => idxField w == 0#8 && rsvField w == 0#16
  | .im => rsvField w == 0#16
  | .i => rsvField w == 0#16 && argField w == 0#32

/-- Decoding, total on every 64-bit word (R85): select by `op`, then check the zero fields (R83). -/
def decode (w : CmdWord) : Decoded :=
  match formatOf (opField w), commandOf (opField w) (idxField w) (argField w) with
  | some f, some i => if f.fits w then .command i else .illegal .reservedNotZero
  | _, _ => .illegal .unassignedOpcode

/-- `op` of a command (R83). -/
def opcode : Instr → BitVec 8
  | .init => 0x01
  | .initOutputs _ => 0x02
  | .requestInputs _ => 0x03
  | .readAll => 0x04
  | .setBits _ => 0x05
  | .clearBits _ => 0x06
  | .flush => 0x07
  | .timerInit => 0x10
  | .sleepNanos _ => 0x11
  | .jitterAllowance => 0x12
  | .pulserAcquire _ _ => 0x20
  | .pulserSetWidth _ _ => 0x21
  | .sendPulse _ => 0x22

/-- `idx` of a command: zero where the command has none (R81). -/
def idxOf : Instr → BitVec 8
  | .init | .initOutputs _ | .requestInputs _ | .readAll | .setBits _ | .clearBits _ | .flush
  | .timerInit | .sleepNanos _ | .jitterAllowance => 0
  | .pulserAcquire count _ => count
  | .pulserSetWidth idx _ => idx
  | .sendPulse idx => idx

/-- `arg` of a command: zero where the command has none (R81). -/
def argOf : Instr → Word
  | .init | .readAll | .flush | .timerInit | .jitterAllowance | .sendPulse _ => 0
  | .initOutputs mask | .requestInputs mask | .setBits mask | .clearBits mask => mask
  | .sleepNanos ns => ns
  | .pulserAcquire _ mask => mask
  | .pulserSetWidth _ ns => ns

/-- A command word from its fields, `rsv` zero (R81, R88). -/
def assembleWord (op idx : BitVec 8) (arg : Word) : CmdWord :=
  (arg.setWidth 64 <<< 32) ||| (idx.setWidth 64 <<< 8) ||| op.setWidth 64

/-- The word of a command (R81, R83, R88). -/
def encode (i : Instr) : CmdWord := assembleWord (opcode i) (idxOf i) (argOf i)

/-- `match(c)` of R84. -/
def matchBits (i : Instr) : CmdWord := (opcode i).setWidth 64

/-- `mask(c)` of R84, by format. -/
def Format.maskBits : Format → CmdWord
  | .n => 0xFFFFFFFFFFFFFFFF
  | .m => 0x00000000FFFFFFFF
  | .im => 0x00000000FFFF00FF
  | .i => 0xFFFFFFFFFFFF00FF

/-- The format of a command (R84). -/
def formatOfCommand : Instr → Format
  | .init | .readAll | .flush | .timerInit | .jitterAllowance => .n
  | .initOutputs _ | .requestInputs _ | .setBits _ | .clearBits _ | .sleepNanos _ => .m
  | .pulserAcquire _ _ | .pulserSetWidth _ _ => .im
  | .sendPulse _ => .i

/-- Byte `k` of a command word in transport: byte 0 holds bits 7:0 (R63, D40). -/
def byteOf (w : CmdWord) (k : Nat) : Byte := w.extractLsb' (8 * k) 8

/-- A command word as the eight bytes of a little-endian transport (R63, D40). -/
def bytesOf (w : CmdWord) : List Byte := (List.range 8).map (byteOf w)

/-- The number that little-endian bytes stand for. -/
def littleEndian : List Byte → Nat
  | [] => 0
  | b :: bs => b.toNat + 256 * littleEndian bs

/-- Decoding of any bytes: eight bytes are one word (R80: one length), and the rest follows.
`none` when fewer than eight bytes stand there. -/
def decodeBytes (bytes : List Byte) : Option (Decoded × List Byte) :=
  if bytes.length < 8 then none
  else some (decode (BitVec.ofNat 64 (littleEndian (bytes.take 8))), bytes.drop 8)

/-- The instruction the decoder reads from a word of the opcode table: its low `nbits` bits laid out as
the eight bytes of a command word, every higher bit 0. -/
def decodeTableWord (nbits w : Nat) : Option Instr :=
  match decodeBytes (bytesOf (BitVec.ofNat 64 (w % 2 ^ nbits))) with
  | some (.command i, _) => some i
  | _ => none

end Sys2Proof
end

