-- ==== Sys2Proof/Config.lean ====
section
/-! DEFINITION. The configuration record of R9, the constants R9 fixes, the fixture configuration of
95_test_vectors.md section 0, and the free values (draws of R8, D49) that no rule fixes. -/

namespace Sys2Proof

/-- The outcome of a mapping attempt or of an OS hint (R101, R173). -/
inductive Status where
  | ok
  | fail
deriving DecidableEq, Repr, Inhabited

/-- What the identification file holds (R172); its format is in no source (N14). -/
abbrev Content := List Byte

/-- What a data-register read returns at input-direction bits (R9 `DATA_READ_MODE`, R58). -/
inductive DataReadMode where
  | latch
  | pinForInputs
deriving DecidableEq, Repr, Inhabited

/-- The 14 lines of R120, in line-map order. -/
inductive LineName where
  | oe | clock | strobe
  | row0 | row1 | row2 | row3 | row4
  | r1 | g1 | b1 | r2 | g2 | b2
deriving DecidableEq, Repr, Inhabited

/-- Line-map order: the column `#` of R120's table. -/
def LineName.all : List LineName :=
  [.oe, .clock, .strobe, .row0, .row1, .row2, .row3, .row4, .r1, .g1, .b1, .r2, .g2, .b2]

/-- A virtual line (R120): its bit in virtual space and its (bank, physical bit) pair. -/
structure Line where
  name : LineName
  vbit : Nat
  bank : Nat
  pbit : Nat
deriving DecidableEq, Repr, Inhabited

/-- A GPIO bank's identity, name and physical base address (R25). -/
structure BankCfg where
  name : String
  base : Nat
deriving DecidableEq, Repr, Inhabited

/-- A calibration profile (R174). -/
structure Profile where
  floorNs : Nat
  offsetNs : Nat
  num : Nat
  den : Nat
  jitterNs : Nat
deriving DecidableEq, Repr, Inhabited

/-- The configuration record `cfg` of R9; its OPEN fields. `NUM_BANKS` is the length of `banks`
(`BANK_NAME[b]` and `BANK_BASE[b]` are its entries). `DETECT` is a finite table that answers
INCONCLUSIVE elsewhere, `PULSE_CALIBRATION` the exceptions to the identity (DESIGN CHOICE, log 9). -/
structure Cfg where
  banks : List BankCfg
  cruBase : Nat
  clkEnOffset : Nat
  clkMask : BitVec 16
  clkValue : BitVec 16
  pageSize : Nat
  paddrWidth : Nat
  lineMap : List Line
  reservedInit : Nat
  dataReadMode : DataReadMode
  hostPrivileged : Bool
  counterAccessible : Bool
  profiles : List Profile
  detect : List (Content × Nat)
  defaultProfile : Nat
  forcedProfile : Nat
  minSleepNs : Nat
  ncThresholdNs : Nat
  ncOverheadNs : Nat
  pulseCalibration : List (Nat × Nat)
  perfCore : Nat
  rtLimit : Int
deriving DecidableEq, Repr

/-- `NUM_BANKS` (R9). -/
def Cfg.numBanks (cfg : Cfg) : Nat := cfg.banks.length

/-- `BANK_BASE[b]` (R9, R25). -/
def Cfg.bankBase (cfg : Cfg) (b : Nat) : Nat := (cfg.banks[b]?.map BankCfg.base).getD 0

/-- The physical address of the clock-control register (R54, R56). -/
def Cfg.clkAddr (cfg : Cfg) : Nat := cfg.cruBase + cfg.clkEnOffset

/-- The fixture configuration of 95_test_vectors.md section 0; the fields the fixture does not name
(bank names, `PADDR_WIDTH`, `DETECT`, `PERF_CORE`, `RT_LIMIT`) are this model's (DESIGN CHOICE, log 1). -/
def Cfg.fixture : Cfg where
  banks := (List.range 9).map fun b => ⟨"GPIO", 0x10000000 + b * 0x10000⟩
  cruBase := 0x20000000
  clkEnOffset := 0x190
  clkMask := 0x01FF
  clkValue := 0x0000
  pageSize := 4096
  paddrWidth := 32
  lineMap :=
    [⟨.oe, 18, 8, 5⟩, ⟨.clock, 17, 8, 6⟩, ⟨.strobe, 4, 8, 7⟩,
     ⟨.row0, 22, 7, 0⟩, ⟨.row1, 23, 7, 1⟩, ⟨.row2, 24, 7, 2⟩, ⟨.row3, 25, 7, 3⟩, ⟨.row4, 15, 7, 4⟩,
     ⟨.r1, 11, 7, 8⟩, ⟨.g1, 27, 7, 9⟩, ⟨.b1, 7, 7, 10⟩,
     ⟨.r2, 8, 7, 11⟩, ⟨.g2, 9, 7, 12⟩, ⟨.b2, 10, 7, 13⟩]
  reservedInit := 0
  dataReadMode := .latch
  hostPrivileged := true
  counterAccessible := true
  profiles := [⟨50, 50, 1, 2, 12000⟩]
  detect := []
  defaultProfile := 0
  forcedProfile := 0
  minSleepNs := 5000
  ncThresholdNs := 30000
  ncOverheadNs := 2000
  pulseCalibration := []
  perfCore := 0
  rtLimit := -1

/-- `VBITS` (R9, D9): the width of the virtual bit space. -/
def Config.vbits : Nat := 32

/-- `REGW` (R9, R53): the width of a device register. -/
def Config.regw : Nat := 32

/-- `DATA_OFFSET` (R9, R56): byte offset of the data register from a bank window. -/
def Config.dataOffset : Nat := 0

/-- `DIR_OFFSET` (R9, R56, C3): byte offset of the direction register from a bank window. -/
def Config.dirOffset : Nat := 4

/-- `COUNTER_HZ` (R9, R171): the tick rate of the free-running counter. -/
def Config.counterHz : Nat := 1000000

/-- Nanoseconds of one counter tick (R171: one tick per microsecond). -/
def Config.tickNs : Nat := 1000000000 / Config.counterHz

/-! Free values. Each is applied to the count of draws made so far; nothing constrains it (log 6). -/

/-- Whether a mapping attempt of a privileged host succeeds: a draw under no law (R101, D38). -/
opaque Config.freeMapOutcome : Nat → Status

/-- External levels of a bank's input pins at one read: a 32-bit draw (R58, D49). -/
opaque Config.freePins : Nat → Word

/-- What reading the identification file gives: none (unavailable) or some content (R172). -/
opaque Config.freeIdFile : Nat → Option Content

/-- The outcome of an OS tuning hint (R173). -/
opaque Config.freeHintOutcome : Nat → Status

/-- By how much time passes beyond what R170 requires of an event: a draw under no upper bound. -/
opaque Config.freeElapse : Nat → Nat

/-- What a read gives that no rule states: the clock-control register and words outside R56's table
(DESIGN CHOICE, log 10). -/
opaque Config.freeOpenRead : Nat → Word

/-- The profile an `active` index outside the table would name; not reachable (DESIGN CHOICE, log 12). -/
opaque Config.freeProfile : Nat → Profile

end Sys2Proof
end

