-- ==== Sys2Proof/Machine/State.lean ====
section
/-! DEFINITION. The machine's state as plain data: every piece of state 10_state.md names (R20 to R41),
the configuration the run is for, and the model's own list of draws still to come; the state after
reset; the ways a step can stop. -/

namespace Sys2Proof.Machine

/-- Polarity of a pending change (R14, R29). -/
inductive Polarity where
  | set
  | clear
deriving DecidableEq, Repr, Inhabited

/-- A bank's WriteCoalesceEntry `WC[b]` (R29). -/
structure WcEntry where
  pending : Word
  pol : Polarity
  dirty : Bool
  mixed : Bool
deriving DecidableEq, Repr, Inhabited

/-- The reset and post-flush value of an entry (R29). -/
def WcEntry.clean : WcEntry := ⟨0#32, .set, false, false⟩

/-- The most recently applied (mask, polarity) pair (R31). -/
structure Memo where
  mask : Word
  pol : Polarity
deriving DecidableEq, Repr

/-- The result of hardware-variant detection (R32). -/
inductive Detected where
  | none
  | profile (p : Nat)
  | default
deriving DecidableEq, Repr

/-- An acquired pulser: line mask, count of widths, and each width or `none` while unset (R33). -/
structure Pulser where
  mask : Word
  count : BitVec 8
  widths : List (Option Word)
deriving DecidableEq, Repr

/-- The access mode of a window (R52). -/
inductive Mode where
  | read
  | write
deriving DecidableEq, Repr

/-- What a window reaches (R54): a bank's registers or the clock-control register. -/
inductive Target where
  | bank (b : Nat)
  | clock
deriving DecidableEq, Repr

/-- A register window (R52). -/
structure Window where
  target : Target
  page : Nat
  off : Nat
  length : Nat
  mode : Mode
deriving DecidableEq, Repr

/-- The two OS tuning hints (R172, R173). -/
inductive HintKind where
  | rtThrottle
  | governor
deriving DecidableEq, Repr

/-- An entry of the event trace (R13). -/
inductive Event where
  | map (page length : Nat) (mode : Mode) (outcome : Status)
  | regRead (paddr : Nat) (value : Word)
  | regWrite (paddr : Nat) (value : Word)
  | counterRead (value : Word)
  | osSleep (ns : Nat)
  | spin (n : Nat)
  | osHint (kind : HintKind) (outcome : Status)
  | idFileRead (content : Option Content)
deriving DecidableEq, Repr

/-- The fault codes of R210. -/
inductive FaultCode where
  | illegalCommand
  | notInitialized
  | timerNotInitialized
  | noPulser
  | pulseIndex
  | pulseWidthUnset
  | mixedPolarity
  | clockNotEnabled
  | windowAccess
deriving DecidableEq, Repr

/-- The draws still to come, the MODEL's own field: for each kind a finite list of answers the
environment will give, and a count of the draws made. When a list has run out the answer is the
opaque free value of Config for that count (log 6). -/
structure Env where
  mapOutcomes : List Status
  pins : List Word
  idFiles : List (Option Content)
  hintOutcomes : List Status
  elapses : List Nat
  openReads : List Word
  drawn : Nat
deriving DecidableEq, Repr

/-- No answer is fixed in advance: every draw is a free value. -/
def Env.free : Env := ⟨[], [], [], [], [], [], 0⟩

/-- The state of the block, the device behind it, the host's channel and the environment. -/
@[ext]
structure State where
  /-- The configuration (R9), fixed for the run. -/
  cfg : Cfg
  /-- The host's sequence of command words (R23). -/
  program : List CmdWord
  /-- The index of the next command (R23). -/
  position : Nat
  /-- RESULT with its valid bit (R20). -/
  result : Option Word
  /-- FAULT (R21). -/
  fault : BitVec 8
  /-- FAULT_INFO (R41). -/
  faultInfo : BitVec 64
  /-- Whether the bank table is populated (R24). -/
  mapped : Bool
  /-- The claimed outputs (R27). -/
  outputs : Word
  /-- The claimed inputs (R27). -/
  inputs : Word
  /-- The reserved lines (R27). -/
  reserved : Word
  /-- The coalescing entries, by bank (R29). -/
  wc : List WcEntry
  /-- The memo (R31). -/
  memo : Option Memo
  /-- Whether the timing engine is started (R32). -/
  timerInit : Bool
  /-- The detection result (R32). -/
  detected : Detected
  /-- The profile in use (R32). -/
  active : Nat
  /-- Whether the counter is accessible (R32). -/
  counterOk : Bool
  /-- The pulser (R33). -/
  pulser : Option Pulser
  /-- The data latches of the GPIO device, by bank (R34). -/
  data : List Word
  /-- The direction registers of the GPIO device, by bank (R34). -/
  dir : List Word
  /-- The clock gate field (R35). -/
  clk : BitVec 16
  /-- The hidden time `T` in nanoseconds (R36). -/
  time : Nat
  /-- The hidden counter phase (R36). -/
  phase0 : Nat
  /-- The event trace (R37). -/
  trace : List Event
  /-- The draws still to come (the model's own, log 6). -/
  env : Env
deriving DecidableEq, Repr

/-- The ways the machine stops. -/
inductive Fault where
  /-- Raised by `step` while FAULT is not 0: the block takes no command (R213). Safe: the spec has no
  step there either. -/
  | stuck (code : BitVec 8)
  /-- Raised by the host's read of a RESULT that holds no value (R20); never by `step`. Safe. -/
  | resultInvalid
deriving DecidableEq, Repr

/-- The inputs the model has no meaning for. -/
inductive Refusal where
  /-- The instruction of this mnemonic has no meaning yet. Raised by no arm of `exec`. Safe. -/
  | notModelled (mnemonic : String)
  /-- Raised by `step` for a configuration that fails `cfg_wf` (R10). Safe. -/
  | illFormedConfig
  /-- Raised by `step` for a configuration whose registers lie outside the physical address space
  (R51; log 8). Safe. -/
  | addressOutsideSpace
deriving DecidableEq, Repr

/-- `DATA[b]` (R34). -/
def State.dataOf (s : State) (b : Nat) : Word := s.data.getD b 0#32

/-- `DIR[b]` (R34). -/
def State.dirOf (s : State) (b : Nat) : Word := s.dir.getD b 0#32

/-- `WC[b]` (R29). -/
def State.wcOf (s : State) (b : Nat) : WcEntry := s.wc.getD b WcEntry.clean

/-- The draws made at reset: what R40 leaves unspecified. -/
structure ResetDraws where
  data : List Word
  dir : List Word
  clk : BitVec 16
  active : Nat
  counterOk : Bool
  time : Nat
  phase0 : Nat
  env : Env
deriving DecidableEq, Repr

/-- The values the assumption log names for what R40 leaves unspecified (DESIGN CHOICE, logs 2, 3, 4, 6). -/
def ResetDraws.logged : ResetDraws := ⟨[], [], 0#16, 0, false, 0, 0, Env.free⟩

/-- The start of the owning process (R240) under a configuration, with the draws of R40 given: the
table of R40, field by field. -/
def State.boot (cfg : Cfg) (d : ResetDraws) : State where
  cfg := cfg
  program := []
  position := 0
  result := none
  fault := 0#8
  faultInfo := 0#64
  mapped := false
  outputs := 0#32
  inputs := 0#32
  reserved := BitVec.ofNat 32 cfg.reservedInit
  wc := List.replicate cfg.numBanks WcEntry.clean
  memo := none
  timerInit := false
  detected := .none
  active := d.active
  counterOk := d.counterOk
  pulser := none
  data := (List.range cfg.numBanks).map fun b => d.data.getD b 0#32
  dir := (List.range cfg.numBanks).map fun b => d.dir.getD b 0#32
  clk := d.clk
  time := d.time
  phase0 := d.phase0
  trace := []
  env := d.env

/-- The machine right after reset: R40 under the fixture configuration (log 1), the unspecified values
as logged (logs 2, 3, 4, 6), no command issued (R241, log 5). -/
def State.reset : State := State.boot Cfg.fixture ResetDraws.logged

end Sys2Proof.Machine
end

