-- ==== Sys2Proof/Machine/Flags.lean ====
section
/-! DEFINITION. The flags of the block. There are no condition codes (R38); the Boolean flags that are
computed are those of a coalescing entry, the write enables of the clock gate, and the claim
acceptance. -/

namespace Sys2Proof.Machine

/-- Staging bits of one polarity into an entry: `dirty`, `mixed`, `pol` and `pending` (R137). An
unaffected bank keeps its entry. -/
def WcEntry.stage (e : WcEntry) (p : Word) (pol : Polarity) : WcEntry :=
  if p = 0#32 then e
  else
    { pending := e.pending ||| p, pol := pol, dirty := true,
      mixed := e.mixed || (e.dirty && decide (e.pol ≠ pol)) }

/-- What a flush writes over the value it read (R138). -/
def WcEntry.apply (e : WcEntry) (x : Word) : Word :=
  match e.pol with
  | .set => x ||| e.pending
  | .clear => x &&& ~~~e.pending

/-- The clock gate field after a write of `v` to its register: bit `i` is written where bit `16 + i` of
`v` enables it (R59). -/
def gateField (clk : BitVec 16) (v : Word) : BitVec 16 :=
  let enable : BitVec 16 := v.extractLsb' 16 16
  let value : BitVec 16 := v.extractLsb' 0 16
  (clk &&& ~~~enable) ||| (value &&& enable)

/-- The subset of a claim request that is granted (R130). -/
def State.accepted (s : State) (req : Word) : Word := req &&& ~~~(s.outputs ||| s.inputs ||| s.reserved)

/-- The direction register with one line's bit programmed: set for output, clear for input (R130). -/
def programDir (dirbit : Bool) (d pinMask : Word) : Word := if dirbit then d ||| pinMask else d &&& ~~~pinMask

end Sys2Proof.Machine
end

