-- ==== Sys2Proof/Machine/Operands.lean ====
section
/-! DEFINITION. What the operands of a command stand for: virtual masks through the line map
(41_line_map.md), and the register windows a bank or the clock-control register is reached by
(20_memory.md). -/

namespace Sys2Proof.Machine

/-- `bit(i) = 1 << i` (R11), within 32 bits. -/
def bit (i : Nat) : Word := 1#32 <<< i

/-- The OR of a list of masks. -/
def orAll (ws : List Word) : Word := ws.foldr (· ||| ·) 0#32

/-- `DEFINED`: the virtual mask of all defined lines (R122). -/
def defined (cfg : Cfg) : Word := orAll (cfg.lineMap.map fun l => bit l.vbit)

/-- `resolve(m)`: the (bank, physical bit) pairs of the lines whose virtual bit is set, in line-map
order (R123). Bits without a line are ignored (R126). -/
def resolve (cfg : Cfg) (m : Word) : List (Nat × Nat) :=
  (cfg.lineMap.filter fun l => m.getLsbD l.vbit).map fun l => (l.bank, l.pbit)

/-- `perBank(m)[b]` (R124). -/
def perBank (cfg : Cfg) (m : Word) (b : Nat) : Word :=
  orAll (((resolve cfg m).filter fun p => p.1 == b).map fun p => bit p.2)

/-- `toVirtual(b, word)` (R125). -/
def toVirtual (cfg : Cfg) (b : Nat) (w : Word) : Word :=
  orAll ((cfg.lineMap.filter fun l => l.bank == b && w.getLsbD l.pbit).map fun l => bit l.vbit)

/-- The banks of the fixed table in ascending order (R12). -/
def banksAscending (cfg : Cfg) : List Nat := List.range cfg.numBanks

/-- The window arithmetic of R52 on a physical address, for a target and a mode. -/
def windowAt (cfg : Cfg) (t : Target) (paddr : Nat) (mode : Mode) : Window :=
  let pageMask := cfg.pageSize - 1
  let page := paddr - (paddr &&& pageMask)
  let off := paddr - page
  { target := t, page := page, off := off,
    length := ((off + 4 + pageMask) / cfg.pageSize) * cfg.pageSize, mode := mode }

/-- `RW[b]` (R54). -/
def readWindow (cfg : Cfg) (b : Nat) : Window := windowAt cfg (.bank b) (cfg.bankBase b) .read

/-- `WW[b]` (R54). -/
def writeWindow (cfg : Cfg) (b : Nat) : Window := windowAt cfg (.bank b) (cfg.bankBase b) .write

/-- `CRW` (R54): mapped by INIT, read by no rule (R107). -/
def clockReadWindow (cfg : Cfg) : Window := windowAt cfg .clock cfg.clkAddr .read

/-- `CWW` (R54). -/
def clockWriteWindow (cfg : Cfg) : Window := windowAt cfg .clock cfg.clkAddr .write

/-- `paddr(win, idx)` (R55); `win.base = page + off` (R52). -/
def Window.paddr (w : Window) (idx : Nat) : Nat := w.page + w.off + 4 * idx

/-- The access lies inside the window (R55). -/
def Window.covers (w : Window) (idx : Nat) : Bool := decide (w.off + 4 * idx + 4 ≤ w.length)

/-- The window of a bank, the one that needs the clock gate (R60). -/
def Window.isBank (w : Window) : Bool :=
  match w.target with
  | .bank _ => true
  | .clock => false

/-- The word index of the data register in a bank's windows (R56). -/
def dataIdx : Nat := Config.dataOffset / 4

/-- The word index of the direction register in a bank's windows (R56). -/
def dirIdx : Nat := Config.dirOffset / 4

/-- `CLK_GATE_WORD = (CLK_MASK << 16) | CLK_VALUE` (R105). -/
def clkGateWord (cfg : Cfg) : Word := (cfg.clkMask.setWidth 32 <<< 16) ||| cfg.clkValue.setWidth 32

/-- `PROFILES[active]` (R176); a free profile outside the table (log 12). -/
def State.profile (s : State) : Profile := (s.cfg.profiles[s.active]?).getD (Config.freeProfile s.active)

/-- `PULSE_CALIBRATION(w)` (R202): the table's value, else the width itself. -/
def calibrated (cfg : Cfg) (w : Nat) : Nat := (cfg.pulseCalibration.lookup w).getD w

/-- `DETECT(content)` (R172); `none` is INCONCLUSIVE. -/
def detectOf (cfg : Cfg) (c : Content) : Option Nat := cfg.detect.lookup c

/-- `pulser.widths[i]` (R33). -/
def Pulser.width (p : Pulser) (i : Nat) : Option Word := p.widths.getD i none

end Sys2Proof.Machine
end

