-- ==== Sys2Proof/Machine/Ops.lean ====
section
/-! DEFINITION. The shared operations: draws, events and the time oracle, raising a fault, device
accesses through windows, mapping, the clock gate, staging and flushing, claims, waiting. -/

namespace Sys2Proof.Machine

/-- What a step or a meaning answers. -/
abbrev Out := Host.Outcome State Fault Refusal

/-! Draws (R8, D49; log 6): the next answer of a kind, and the environment with that answer taken. -/

/-- The outcome of the next mapping attempt (R101). -/
def Env.mapOutcome (e : Env) : Status := e.mapOutcomes.headD (Config.freeMapOutcome e.drawn)

/-- A mapping outcome has been drawn. -/
def Env.tookMapOutcome (e : Env) : Env := { e with mapOutcomes := e.mapOutcomes.tail, drawn := e.drawn + 1 }

/-- The pin levels of the next data read (R58). -/
def Env.pinLevels (e : Env) : Word := e.pins.headD (Config.freePins e.drawn)

/-- Pin levels have been drawn. -/
def Env.tookPinLevels (e : Env) : Env := { e with pins := e.pins.tail, drawn := e.drawn + 1 }

/-- What the identification file holds (R172). -/
def Env.idFile (e : Env) : Option Content := e.idFiles.headD (Config.freeIdFile e.drawn)

/-- The identification file has been read. -/
def Env.tookIdFile (e : Env) : Env := { e with idFiles := e.idFiles.tail, drawn := e.drawn + 1 }

/-- The outcome of the next hint (R173). -/
def Env.hintOutcome (e : Env) : Status := e.hintOutcomes.headD (Config.freeHintOutcome e.drawn)

/-- A hint outcome has been drawn. -/
def Env.tookHintOutcome (e : Env) : Env := { e with hintOutcomes := e.hintOutcomes.tail, drawn := e.drawn + 1 }

/-- The time the next event takes beyond what R170 requires of it. -/
def Env.elapse (e : Env) : Nat := e.elapses.headD (Config.freeElapse e.drawn)

/-- An elapsed time has been drawn. -/
def Env.tookElapse (e : Env) : Env := { e with elapses := e.elapses.tail, drawn := e.drawn + 1 }

/-- The value of a read that no rule states (log 10). -/
def Env.openRead (e : Env) : Word := e.openReads.headD (Config.freeOpenRead e.drawn)

/-- Such a value has been drawn. -/
def Env.tookOpenRead (e : Env) : Env := { e with openReads := e.openReads.tail, drawn := e.drawn + 1 }

/-! Events and the time oracle. -/

/-- The time R170 requires an event to take: the request, for an OS sleep; nothing otherwise. -/
def Event.minDuration : Event → Nat
  | .osSleep ns => ns
  | .map _ _ _ _ | .regRead _ _ | .regWrite _ _ | .counterRead _ | .spin _ | .osHint _ _ | .idFileRead _ => 0

/-- Performing an event: it is appended to the trace (R37), and time moves on by at least what R170
requires, with no upper bound (log 11). -/
def emit (e : Event) (s : State) : State :=
  { s with trace := s.trace ++ [e]
           time := s.time + e.minDuration + s.env.elapse
           env := s.env.tookElapse }

/-! Faults. -/

/-- The code of a fault in FAULT (R210). -/
def FaultCode.toByte : FaultCode → BitVec 8
  | .illegalCommand => 0x01
  | .notInitialized => 0x02
  | .timerNotInitialized => 0x03
  | .noPulser => 0x04
  | .pulseIndex => 0x05
  | .pulseWidthUnset => 0x06
  | .mixedPolarity => 0x07
  | .clockNotEnabled => 0x08
  | .windowAccess => 0x09

/-- `raise F(info)`: FAULT and FAULT_INFO are written and nothing else (R212). -/
def raise (code : FaultCode) (info : BitVec 64) (s : State) : State :=
  { s with fault := code.toByte, faultInfo := info }

/-! A command in progress. -/

/-- A command in progress: the state, and whether this command has written the clock gate (R60; log 17). -/
structure Run where
  st : State
  gated : Bool
deriving DecidableEq, Repr

/-- A part of a command either goes on with a value or has ended the command by raising a fault. -/
inductive Res (α : Type) where
  | ok (a : α) (r : Run)
  | raised (s : State)
deriving Repr

/-- One part of a command after another; a raised fault ends the command at once (R212). -/
def Res.bind {α β : Type} (x : Res α) (f : α → Run → Res β) : Res β :=
  match x with
  | .ok a r => f a r
  | .raised s => .raised s

/-- Parts of a command over a list, in its order. -/
def forEach {α : Type} (xs : List α) (f : α → Run → Res Unit) (r : Run) : Res Unit :=
  match xs with
  | [] => .ok () r
  | x :: rest => (f x r).bind fun _ r' => forEach rest f r'

/-- The state a part of a command leaves, whether it completed or raised (R212). -/
def Res.final {α : Type} (x : Res α) : State :=
  match x with
  | .ok _ r => r.st
  | .raised s => s

/-- A command's body from its start: no clock gate written yet in this command (R60). -/
def runBody (body : Run → Res Unit) (s : State) : Out := .next (body ⟨s, false⟩).final

/-- A fault that carries a physical address (R210); its low 64 bits (log 13). -/
def raiseAt {α : Type} (code : FaultCode) (paddr : Nat) (r : Run) : Res α :=
  .raised (raise code (BitVec.ofNat 64 paddr) r.st)

/-! The checks before a command's own rule (R215). -/

/-- The command word of a command, as FAULT_INFO reports it (R210; log 14). -/
def commandWord (i : Instr) : BitVec 64 := encode i

/-- Check 3 of R215. -/
def needMapped (i : Instr) (s : State) (k : Out) : Out :=
  if s.mapped then k else .next (raise .notInitialized (commandWord i) s)

/-- Check 4 of R215. -/
def needTimer (i : Instr) (s : State) (k : Out) : Out :=
  if s.timerInit then k else .next (raise .timerNotInitialized (commandWord i) s)

/-- Check 5 of R215. -/
def needPulser (i : Instr) (s : State) (k : Pulser → Out) : Out :=
  match s.pulser with
  | some p => k p
  | none => .next (raise .noPulser (commandWord i) s)

/-- Check 6 of R215. -/
def needIndex (idx : BitVec 8) (p : Pulser) (s : State) (k : Out) : Out :=
  if p.count ≤ idx then .next (raise .pulseIndex (idx.setWidth 64) s) else k

/-- Check 7 of R215. -/
def needWidth (idx : BitVec 8) (p : Pulser) (s : State) (k : Word → Out) : Out :=
  match p.width idx.toNat with
  | some w => k w
  | none => .next (raise .pulseWidthUnset (idx.setWidth 64) s)

/-! Device registers. -/

/-- The value a read of a register gives (R58); free where R56's table has no readable register there
(log 10). -/
def regValue (t : Target) (idx : Nat) (s : State) : Word :=
  match t with
  | .bank b =>
    if idx = dataIdx then
      match s.cfg.dataReadMode with
      | .latch => s.dataOf b
      | .pinForInputs => (s.dataOf b &&& s.dirOf b) ||| (s.env.pinLevels &&& ~~~s.dirOf b)
    else if idx = dirIdx then s.dirOf b
    else s.env.openRead
  | .clock => s.env.openRead

/-- The draws a read takes (R58: pins are fresh at every read). -/
def regReadEnv (t : Target) (idx : Nat) (s : State) : Env :=
  match t with
  | .bank _ =>
    if idx = dataIdx then
      match s.cfg.dataReadMode with
      | .latch => s.env
      | .pinForInputs => s.env.tookPinLevels
    else if idx = dirIdx then s.env
    else s.env.tookOpenRead
  | .clock => s.env.tookOpenRead

/-- `DATA[b] <- v` (R57). -/
def setData (b : Nat) (v : Word) (s : State) : State := { s with data := s.data.set b v }

/-- `DIR[b] <- v` (R57). -/
def setDir (b : Nat) (v : Word) (s : State) : State := { s with dir := s.dir.set b v }

/-- The gate field after a write to the clock-control register (R59). -/
def setClk (v : Word) (s : State) : State := { s with clk := gateField s.clk v }

/-- The effect of a write on the register behind a window word (R57, R59); a word outside R56's table is
no register of the model (log 10). -/
def regWrite (t : Target) (idx : Nat) (v : Word) (s : State) : State :=
  match t with
  | .bank b => if idx = dataIdx then setData b v s else if idx = dirIdx then setDir b v s else s
  | .clock => if idx = 0 then setClk v s else s

/-- The draws of a read are taken. -/
def setEnv (e : Env) (s : State) : State := { s with env := e }

/-- `DevRead(win, idx)` (R61). -/
def devRead (w : Window) (idx : Nat) (r : Run) : Res Word :=
  if w.mode ≠ .read then raiseAt .windowAccess (w.paddr idx) r
  else if !w.covers idx then raiseAt .windowAccess (w.paddr idx) r
  else if w.isBank && !r.gated then raiseAt .clockNotEnabled (w.paddr idx) r
  else
    let v := regValue w.target idx r.st
    .ok v { r with st := emit (.regRead (w.paddr idx) v) (setEnv (regReadEnv w.target idx r.st) r.st) }

/-- Whether a write is the clock-gate write of R60. -/
def isGateWrite (cfg : Cfg) (w : Window) (idx : Nat) (v : Word) : Bool :=
  !w.isBank && idx == 0 && v == clkGateWord cfg

/-- `DevWrite(win, idx, v)` (R62). -/
def devWrite (w : Window) (idx : Nat) (v : Word) (r : Run) : Res Unit :=
  if w.mode ≠ .write then raiseAt .windowAccess (w.paddr idx) r
  else if !w.covers idx then raiseAt .windowAccess (w.paddr idx) r
  else if w.isBank && !r.gated then raiseAt .clockNotEnabled (w.paddr idx) r
  else
    .ok () { st := emit (.regWrite (w.paddr idx) v) (regWrite w.target idx v r.st)
             gated := r.gated || isGateWrite r.st.cfg w idx v }

/-- `ClockEnable()` (R106). -/
def clockEnable (r : Run) : Res Unit := devWrite (clockWriteWindow r.st.cfg) 0 (clkGateWord r.st.cfg) r

/-! Mapping. -/

/-- The outcome of a mapping attempt: it fails without privilege and is a draw with it (R101). -/
def mapStatus (s : State) : Status := if s.cfg.hostPrivileged then s.env.mapOutcome else .fail

/-- `Map(paddr, mode)` for a window (R101): the attempt is recorded with its outcome. -/
def mapWindow (w : Window) (s : State) : State :=
  emit (.map w.page w.length w.mode (mapStatus s))
    (setEnv (if s.cfg.hostPrivileged then s.env.tookMapOutcome else s.env) s)

/-- The windows INIT maps, in its order: for each bank read then write, the clock register last (R102). -/
def initWindows (cfg : Cfg) : List Window :=
  (banksAscending cfg).flatMap (fun b => [readWindow cfg b, writeWindow cfg b]) ++
    [clockReadWindow cfg, clockWriteWindow cfg]

/-- Mapping windows one after another until one fails (R102, R103): whether all succeeded, and the state. -/
def mapAll (ws : List Window) (s : State) : Bool × State :=
  match ws with
  | [] => (true, s)
  | w :: rest => if mapStatus s = .ok then mapAll rest (mapWindow w s) else (false, mapWindow w s)

/-! The controller. -/

/-- `RESULT <- v` (R12, R20). -/
def setResult (v : Word) (s : State) : State := { s with result := some v }

/-- One line's direction programming: a read-modify-write of its bank's direction register (R130). -/
def programLine (dirbit : Bool) (p : Nat × Nat) (r : Run) : Res Unit :=
  (devRead (readWindow r.st.cfg p.1) dirIdx r).bind fun d r' =>
    devWrite (writeWindow r'.st.cfg p.1) dirIdx (programDir dirbit d (bit p.2)) r'

/-- `claim(req, dirbit)` up to the update of the claimed set (R130); it leaves the accepted subset in
RESULT. -/
def claim (req : Word) (dirbit : Bool) (r : Run) : Res Unit :=
  let accepted := r.st.accepted req
  let pairs := resolve r.st.cfg accepted
  (if pairs = [] then .ok () r
   else (clockEnable r).bind fun _ r' => forEach pairs (programLine dirbit) r').bind fun _ r' =>
    .ok () { r' with st := setResult accepted r'.st }

/-- `outputs <- outputs | accepted` (R131). -/
def addOutputs (m : Word) (s : State) : State := { s with outputs := s.outputs ||| m }

/-- `inputs <- inputs | accepted` (R132). -/
def addInputs (m : Word) (s : State) : State := { s with inputs := s.inputs ||| m }

/-- Staging into the entries from bank `b` on (R137). -/
def stageFrom (cfg : Cfg) (m : Word) (pol : Polarity) (b : Nat) (es : List WcEntry) : List WcEntry :=
  match es with
  | [] => []
  | e :: rest => e.stage (perBank cfg m b) pol :: stageFrom cfg m pol (b + 1) rest

/-- `stage(m, pol)` (R137): no event, no hardware write. -/
def stage (m : Word) (pol : Polarity) (s : State) : State :=
  { s with wc := stageFrom s.cfg m pol 0 s.wc }

/-- An entry is cleared after its bank is flushed (R138). -/
def cleanWc (b : Nat) (s : State) : State := { s with wc := s.wc.set b WcEntry.clean }

/-- The flush of one bank (R138). -/
def flushBank (b : Nat) (r : Run) : Res Unit :=
  let e := r.st.wcOf b
  if !e.dirty then .ok () r
  else if e.mixed then .raised (raise .mixedPolarity (BitVec.ofNat 64 b) r.st)
  else
    (devRead (readWindow r.st.cfg b) dataIdx r).bind fun x r1 =>
      (devWrite (writeWindow r1.st.cfg b) dataIdx (e.apply x) r1).bind fun _ r2 =>
        .ok () { r2 with st := cleanWc b r2.st }

/-- Some bank has a dirty entry (R138). -/
def anyDirty (s : State) : Bool := (banksAscending s.cfg).any fun b => (s.wcOf b).dirty

/-- `flushStep()` (R138). -/
def flushStep (r : Run) : Res Unit :=
  if anyDirty r.st then
    (clockEnable r).bind fun _ r' => forEach (banksAscending r'.st.cfg) flushBank r'
  else .ok () r

/-- The memo after a set or clear (R136). -/
def setMemo (m : Word) (pol : Polarity) (s : State) : State := { s with memo := some ⟨m, pol⟩ }

/-- The common body of SET_BITS and CLEAR_BITS (R134, R135), memo included (R136). -/
def applyBits (m : Word) (pol : Polarity) (r : Run) : Res Unit :=
  if r.st.memo = some ⟨m, pol⟩ then .ok () r
  else
    (flushStep { r with st := stage m pol r.st }).bind fun _ r' =>
      .ok () { r' with st := setMemo m pol r'.st }

/-- The reads of READ_ALL over a list of banks, aggregated onto `v` (R133). -/
def readBanks (bs : List Nat) (v : Word) (r : Run) : Res Word :=
  match bs with
  | [] => .ok v r
  | b :: rest =>
    if perBank r.st.cfg (defined r.st.cfg) b ≠ 0#32 then
      (devRead (readWindow r.st.cfg b) dataIdx r).bind fun w r' =>
        readBanks rest (v ||| toVirtual r'.st.cfg b w) r'
    else readBanks rest v r

/-! The timing engine. -/

/-- What the counter reads at the present time (R170, R171). -/
def counterValue (s : State) : Word := BitVec.ofNat 32 (s.phase0 + s.time / Config.tickNs)

/-- `CounterRead()` (R171). -/
def counterRead (s : State) : State := emit (.counterRead (counterValue s)) s

/-- `OsSleep(ns)` (R170). -/
def osSleep (ns : Nat) (s : State) : State := emit (.osSleep ns) s

/-- `Spin(n)` (R176). -/
def spin (n : Nat) (s : State) : State := emit (.spin n) s

/-- `iters(P, ns)` (R175): truncated subtraction, division rounded toward zero. -/
def iters (p : Profile) (ns : Nat) : Nat := ((ns - p.offsetNs) * p.num) / p.den

/-- `BusyWait(ns)` (R176). -/
def busyWait (ns : Nat) (s : State) : State :=
  if ns < s.profile.floorNs then s else spin (iters s.profile ns) s

/-- Nanoseconds between two counter reads, across at most one wrap (R171). -/
def elapsedNs (t0 t1 : Word) : Nat := (t1 - t0).toNat * Config.tickNs

/-- The counter path's wait for a long duration (R178, R179): sleep, measure, busy-wait the shortfall. -/
def measuredSleep (d : Nat) (s : State) : State :=
  let s1 := counterRead s
  let s2 := osSleep (d - s.profile.jitterNs) s1
  let s3 := counterRead s2
  let elapsed := elapsedNs (counterValue s) (counterValue s2)
  if d ≤ elapsed then s3 else busyWait (d - elapsed) s3

/-- The body of SLEEP_NANOS (R178). -/
def sleepBody (d : Nat) (s : State) : State :=
  if s.counterOk then
    if s.profile.jitterNs + s.cfg.minSleepNs < d then measuredSleep d s else busyWait d s
  else if s.cfg.ncThresholdNs < d then osSleep (d - s.cfg.ncOverheadNs) s
  else busyWait d s

/-- `IdFileRead()` (R172). -/
def idFileRead (s : State) : State := emit (.idFileRead s.env.idFile) (setEnv s.env.tookIdFile s)

/-- What detection concludes from the identification file (R172). -/
def detection (cfg : Cfg) (c : Option Content) : Detected :=
  match c with
  | none => .default
  | some content =>
    match detectOf cfg content with
    | none => .default
    | some p => .profile p

/-- The profile a detection result names: `DEFAULT` is the safe default profile (R9, R172). -/
def Detected.profileIndex (cfg : Cfg) (d : Detected) : Option Nat :=
  match d with
  | .none => Option.none
  | .profile p => some p
  | .default => some cfg.defaultProfile

/-- `OsHint(kind, value)` (R173): only the kind and the drawn outcome are recorded. -/
def osHint (kind : HintKind) (_value : Int) (s : State) : State :=
  emit (.osHint kind s.env.hintOutcome) (setEnv s.env.tookHintOutcome s)

/-- The timing engine's state once started (R172). -/
def startTimer (d : Detected) (s : State) : State :=
  { s with timerInit := true
           detected := d
           active := s.cfg.forcedProfile
           counterOk := s.cfg.counterAccessible && s.cfg.hostPrivileged }

/-! The pulser. -/

/-- The pulser is replaced (R200, R201). -/
def setPulser (p : Pulser) (s : State) : State := { s with pulser := some p }

/-- One width of a pulser is set (R201). -/
def Pulser.setWidth (p : Pulser) (i : Nat) (w : Word) : Pulser := { p with widths := p.widths.set i (some w) }

/-- The bank table is populated (R102). -/
def setMapped (s : State) : State := { s with mapped := true }

end Sys2Proof.Machine
end

