-- ==== Sys2Proof/WellFormed.lean ====
section
/-! DEFINITION. The well-formedness of a configuration, `cfg_wf` of R10, clause by clause, and the
condition of R51 that the registers lie in the physical address space. Operands of a command need
no check: their widths are in the types of `Instr`. -/

namespace Sys2Proof

/-- R10 clause 1: at least nine banks, bases 4-aligned and placed so that the direction register
lies in the mapped window, bases pairwise distinct. -/
def Cfg.banksOk (cfg : Cfg) : Bool :=
  decide (9 ≤ cfg.numBanks) &&
  cfg.banks.all (fun k => k.base % 4 == 0 && decide (k.base % cfg.pageSize + 8 ≤ cfg.pageSize)) &&
  decide ((cfg.banks.map BankCfg.base).Nodup)

/-- R10 clause 2: the clock-control register is 4-aligned. -/
def Cfg.clkOk (cfg : Cfg) : Bool := cfg.clkAddr % 4 == 0

/-- R10 clause 3: exactly the 14 lines of R120, distinct virtual bits, distinct physical pairs, all
in range, and `clock` at (17, 8, 6). -/
def Cfg.linesOk (cfg : Cfg) : Bool :=
  cfg.lineMap.map Line.name == LineName.all &&
  cfg.lineMap.all (fun l => decide (l.vbit < Config.vbits) && decide (l.bank < cfg.numBanks) &&
    decide (l.pbit < Config.regw)) &&
  decide ((cfg.lineMap.map Line.vbit).Nodup) &&
  decide ((cfg.lineMap.map fun l => (l.bank, l.pbit)).Nodup) &&
  cfg.lineMap.contains ⟨.clock, 17, 8, 6⟩

/-- R10 clause 4: `RESERVED_INIT < 2^VBITS`. -/
def Cfg.reservedOk (cfg : Cfg) : Bool := decide (cfg.reservedInit < 2 ^ Config.vbits)

/-- R10 clause 5: the profiles and the indices into them. -/
def Cfg.profilesOk (cfg : Cfg) : Bool :=
  decide (cfg.defaultProfile < cfg.profiles.length) &&
  decide (cfg.forcedProfile < cfg.profiles.length) &&
  cfg.detect.all (fun d => (cfg.detect.lookup d.1).all fun p => decide (p < cfg.profiles.length)) &&
  cfg.profiles.all (fun p => decide (0 < p.den) && decide (p.num < 2 ^ 31) && decide (p.jitterNs < 2 ^ 32))

/-- R10 clause 6: the no-counter path's subtraction cannot go below zero. -/
def Cfg.thresholdsOk (cfg : Cfg) : Bool := decide (cfg.ncOverheadNs ≤ cfg.ncThresholdNs)

/-- R10 clause 7: the page size is a power of two and at least 8. -/
def Cfg.pageOk (cfg : Cfg) : Bool :=
  decide (8 ≤ cfg.pageSize) && 2 ^ cfg.pageSize.log2 == cfg.pageSize

/-- R10 clause 8: `PULSE_CALIBRATION(w)` fits 32 bits for every 32-bit width `w`. Widths outside the table
are unchanged, so only the table's own widths need the check. -/
def Cfg.calibrationOk (cfg : Cfg) : Bool :=
  cfg.pulseCalibration.all fun e =>
    decide (2 ^ 32 ≤ e.1) || decide ((cfg.pulseCalibration.lookup e.1).getD e.1 < 2 ^ 32)

/-- `cfg_wf` of R10: all eight clauses. -/
def Cfg.wellFormed (cfg : Cfg) : Bool :=
  cfg.banksOk && cfg.clkOk && cfg.linesOk && cfg.reservedOk && cfg.profilesOk && cfg.thresholdsOk &&
  cfg.pageOk && cfg.calibrationOk

/-- R51: the registers of R56 lie at physical addresses below `2^PADDR_WIDTH` (DEDUCED: R10 does not
list this check, log 8). -/
def Cfg.inAddressSpace (cfg : Cfg) : Bool :=
  cfg.banks.all (fun k => decide (k.base + 8 ≤ 2 ^ cfg.paddrWidth)) &&
  decide (cfg.clkAddr + 4 ≤ 2 ^ cfg.paddrWidth)

end Sys2Proof
end

