-- ==== Sys2Proof/Machine/Channel.lean ====
section
/-! DEFINITION. The command channel: fetching the next command, the checks before it runs, the host's
position, and the host's own operations (R7, R20, R23, R213, R215). -/

namespace Sys2Proof.Machine

/-- The next command word of the host's sequence (R23). -/
def fetch (s : State) : Option CmdWord := s.program[s.position]?

/-- What the block does with the state it is in. -/
inductive Admission where
  | refuse (why : Refusal)
  | stuck
  | idle
  | illegal (w : CmdWord)
  | run (i : Instr)
deriving DecidableEq, Repr

/-- The checks before a command runs: the configuration (R10, log 8), FAULT (check 1 of R215), whether
the host has issued a command (R241, log 5), decoding (check 2 of R215). -/
def admission (s : State) : Admission :=
  if !s.cfg.wellFormed then .refuse .illFormedConfig
  else if !s.cfg.inAddressSpace then .refuse .addressOutsideSpace
  else if s.fault ≠ 0#8 then .stuck
  else
    match fetch s with
    | none => .idle
    | some w =>
      match decode w with
      | .illegal _ => .illegal w
      | .command i => .run i

/-- The host's position: advanced by one after a command without fault, held after a fault (R23, R212). -/
def advance (s : State) : State := if s.fault = 0#8 then { s with position := s.position + 1 } else s

/-- A command's answer with the position brought up to date. -/
def settle (o : Out) : Out :=
  match o with
  | .next s => .next (advance s)
  | .fault f => .fault f
  | .refused r => .refused r

/-- The host issues one more command word (R7, R23). -/
def issue (w : CmdWord) (s : State) : State := { s with program := s.program ++ [w] }

/-- The host's sequence with `w` as the next command: it replaces the word at the position, or ends the
sequence there. -/
def placeCommand (w : CmdWord) (s : State) : State :=
  { s with program := s.program.take s.position ++ List.replicate (s.position - s.program.length) 0#64 ++
      w :: s.program.drop (s.position + 1) }

/-- The host reads RESULT between commands; a read of `none` is a host-side fault (R20). -/
def hostReadResult (s : State) : Host.Outcome Word Fault Refusal :=
  match s.result with
  | some v => .next v
  | none => .fault .resultInvalid

/-- The host reads FAULT (R21). -/
def hostReadFault (s : State) : BitVec 8 := s.fault

/-- The host reads FAULT_INFO (R41). -/
def hostReadFaultInfo (s : State) : BitVec 64 := s.faultInfo

/-- What the host takes after `read_line L`: bit `vbit(L)` of RESULT (R89). -/
def hostReadLine (l : LineName) (s : State) : Host.Outcome Bool Fault Refusal :=
  match hostReadResult s with
  | .next v => .next ((s.cfg.lineMap.filter fun x => x.name == l).any fun x => v.getLsbD x.vbit)
  | .fault f => .fault f
  | .refused r => .refused r

end Sys2Proof.Machine
end

