-- ==== Sys2Proof/Machine/Controller.lean ====
section
/-! DEFINITION. The controller's commands (42_controller.md). -/

namespace Sys2Proof.Machine

/-- INIT_OUTPUTS (R131). -/
def execInitOutputs (mask : Word) (s : State) : Out :=
  needMapped (.initOutputs mask) s <|
    runBody (fun r => (claim mask true r).bind fun _ r' =>
      .ok () { r' with st := addOutputs (r.st.accepted mask) r'.st }) s

/-- REQUEST_INPUTS (R132). -/
def execRequestInputs (mask : Word) (s : State) : Out :=
  needMapped (.requestInputs mask) s <|
    runBody (fun r => (claim mask false r).bind fun _ r' =>
      .ok () { r' with st := addInputs (r.st.accepted mask) r'.st }) s

/-- READ_ALL (R133). -/
def execReadAll (s : State) : Out :=
  needMapped .readAll s <|
    runBody (fun r => (clockEnable r).bind fun _ r1 =>
      (readBanks (banksAscending r1.st.cfg) 0#32 r1).bind fun v r2 =>
        .ok () { r2 with st := setResult v r2.st }) s

/-- SET_BITS (R134). -/
def execSetBits (mask : Word) (s : State) : Out :=
  needMapped (.setBits mask) s (runBody (applyBits mask .set) s)

/-- CLEAR_BITS (R135). -/
def execClearBits (mask : Word) (s : State) : Out :=
  needMapped (.clearBits mask) s (runBody (applyBits mask .clear) s)

/-- FLUSH (R139). -/
def execFlush (s : State) : Out := needMapped .flush s (runBody flushStep s)

end Sys2Proof.Machine
end

