-- ==== Sys2Proof/Machine/InitClock.lean ====
section
/-! DEFINITION. INIT (40_init_clock.md). -/

namespace Sys2Proof.Machine

/-- INIT on a block whose table is not populated: map every window; on a failure no table (R102, R103). -/
def initTable (s : State) : State :=
  let r := mapAll (initWindows s.cfg) s
  if r.1 then setResult 0#32 (setMapped r.2) else setResult 1#32 r.2

/-- INIT (R102). -/
def execInit (s : State) : Out := .next (if s.mapped then setResult 0#32 s else initTable s)

end Sys2Proof.Machine
end

