-- ==== Sys2Proof/Machine/PinPulser.lean ====
section
/-! DEFINITION. The pin pulser's commands (44_pulser.md). -/

namespace Sys2Proof.Machine

/-- PULSER_ACQUIRE (R200). -/
def execPulserAcquire (count : BitVec 8) (mask : Word) (s : State) : Out :=
  needMapped (.pulserAcquire count mask) s <|
    .next (setPulser ⟨mask, count, List.replicate count.toNat none⟩ s)

/-- PULSER_SET_WIDTH (R201). -/
def execPulserSetWidth (idx : BitVec 8) (ns : Word) (s : State) : Out :=
  needMapped (.pulserSetWidth idx ns) s <|
    needPulser (.pulserSetWidth idx ns) s fun p =>
      needIndex idx p s (.next (setPulser (p.setWidth idx.toNat ns) s))

/-- The three bodies of a pulse: clear, sleep, set (R202). -/
def pulseBody (mask : Word) (d : Nat) (r : Run) : Res Unit :=
  (applyBits mask .clear r).bind fun _ r1 =>
    applyBits mask .set { r1 with st := sleepBody d r1.st }

/-- SEND_PULSE (R202). -/
def execSendPulse (idx : BitVec 8) (s : State) : Out :=
  needMapped (.sendPulse idx) s <|
    needTimer (.sendPulse idx) s <|
      needPulser (.sendPulse idx) s fun p =>
        needIndex idx p s <|
          needWidth idx p s fun w =>
            runBody (pulseBody p.mask (calibrated s.cfg w.toNat)) s

end Sys2Proof.Machine
end

