-- ==== Sys2Proof/Machine/Timing.lean ====
section
/-! DEFINITION. The timing engine's commands (43_timing.md). -/

namespace Sys2Proof.Machine

/-- The start of the timing engine: identification, then the two hints; the forced profile whatever was
detected (R172, C9). -/
def timerStartup (s : State) : State :=
  let s1 := startTimer (detection s.cfg s.env.idFile) (idFileRead s)
  let s2 := osHint .rtThrottle s1.cfg.rtLimit s1
  osHint .governor s2.cfg.perfCore s2

/-- TIMER_INIT (R172). -/
def execTimerInit (s : State) : Out := .next (setResult 0#32 (if s.timerInit then s else timerStartup s))

/-- SLEEP_NANOS (R178). -/
def execSleepNanos (ns : Word) (s : State) : Out :=
  needTimer (.sleepNanos ns) s (.next (sleepBody ns.toNat s))

/-- JITTER_ALLOWANCE (R181). -/
def execJitterAllowance (s : State) : Out :=
  needTimer .jitterAllowance s (.next (setResult (BitVec.ofNat 32 s.profile.jitterNs) s))

end Sys2Proof.Machine
end

