-- ==== Sys2Proof/Machine/Dispatch.lean ====
section
/-! DEFINITION. One arm for each command of R83, each one call of its meaning. -/

namespace Sys2Proof.Machine

/-- The meaning of a command (R83), once decoded (R215 check 2). -/
def exec (i : Instr) (s : State) : Host.Outcome State Fault Refusal :=
  match i with
  | .init => Sys2Proof.Machine.execInit s
  | .initOutputs mask => Sys2Proof.Machine.execInitOutputs mask s
  | .requestInputs mask => Sys2Proof.Machine.execRequestInputs mask s
  | .readAll => Sys2Proof.Machine.execReadAll s
  | .setBits mask => Sys2Proof.Machine.execSetBits mask s
  | .clearBits mask => Sys2Proof.Machine.execClearBits mask s
  | .flush => Sys2Proof.Machine.execFlush s
  | .timerInit => Sys2Proof.Machine.execTimerInit s
  | .sleepNanos ns => Sys2Proof.Machine.execSleepNanos ns s
  | .jitterAllowance => Sys2Proof.Machine.execJitterAllowance s
  | .pulserAcquire count mask => Sys2Proof.Machine.execPulserAcquire count mask s
  | .pulserSetWidth idx ns => Sys2Proof.Machine.execPulserSetWidth idx ns s
  | .sendPulse idx => Sys2Proof.Machine.execSendPulse idx s

end Sys2Proof.Machine
end

