-- ==== Sys2Proof/Machine/Step.lean ====
section
/-! DEFINITION. One step: the block takes the host's next command and executes it to completion (R7). -/

namespace Sys2Proof.Machine

/-- One step (R7, R213, R215): no step for a refused configuration or while FAULT is not 0; a block with
no command pending waits (log 5); an illegal word raises ILLEGAL_COMMAND (R85). -/
def step (s : State) : Host.Outcome State Fault Refusal :=
  match admission s with
  | .refuse why => .refused why
  | .stuck => .fault (.stuck s.fault)
  | .idle => .next s
  | .illegal w => .next (raise .illegalCommand w s)
  | .run i => settle (exec i s)

/-- The low `nbits` bits of `w` as the command word the next step takes: the host issues it (log 5). -/
def State.withFetchWord (s : State) (nbits w : Nat) : State :=
  placeCommand (BitVec.ofNat 64 (w % 2 ^ nbits)) s

end Sys2Proof.Machine
end

