-- ==== Sys2Proof/Machine/Asm.lean ====
section
/-! DEFINITION. The assembler syntax and pseudo-instructions (R88, R89, D43): lines, their words, and the
reading of one line of text. -/

namespace Sys2Proof.Machine

/-- One assembly line: the commands of R88 with operands as written, and the pseudo-instructions of R89. -/
inductive Asm where
  | init
  | initOutputs (m : Nat)
  | requestInputs (m : Nat)
  | readAll
  | setBits (m : Nat)
  | clearBits (m : Nat)
  | flush
  | timerInit
  | sleepNanos (n : Nat)
  | jitterAllowance
  | pulserAcquire (m k : Nat)
  | pulserSetWidth (i n : Nat)
  | sendPulse (i : Nat)
  | setLine (l : LineName)
  | clearLine (l : LineName)
  | readLine (l : LineName)
  | claimAllOutputs
deriving DecidableEq, Repr

/-- A 32-bit operand; none where it does not fit (R88: an assembly error). -/
def operand32 (n : Nat) : Option Word := if n < 2 ^ 32 then some (BitVec.ofNat 32 n) else none

/-- An 8-bit operand; none where it does not fit (R88). -/
def operand8 (n : Nat) : Option (BitVec 8) := if n < 2 ^ 8 then some (BitVec.ofNat 8 n) else none

/-- `1 << vbit(L)` (R89). -/
def lineMask (cfg : Cfg) (l : LineName) : Word :=
  orAll ((cfg.lineMap.filter fun x => x.name == l).map fun x => bit x.vbit)

/-- The command an assembly line stands for; none on an assembly error (R88, R89). -/
def assemble (cfg : Cfg) : Asm → Option Instr
  | .init => some .init
  | .initOutputs m => (operand32 m).map .initOutputs
  | .requestInputs m => (operand32 m).map .requestInputs
  | .readAll => some .readAll
  | .setBits m => (operand32 m).map .setBits
  | .clearBits m => (operand32 m).map .clearBits
  | .flush => some .flush
  | .timerInit => some .timerInit
  | .sleepNanos n => (operand32 n).map .sleepNanos
  | .jitterAllowance => some .jitterAllowance
  | .pulserAcquire m k => (operand8 k).bind fun k' => (operand32 m).map (.pulserAcquire k')
  | .pulserSetWidth i n => (operand8 i).bind fun i' => (operand32 n).map (.pulserSetWidth i')
  | .sendPulse i => (operand8 i).map .sendPulse
  | .setLine l => some (.setBits (lineMask cfg l))
  | .clearLine l => some (.clearBits (lineMask cfg l))
  | .readLine _ => some .readAll
  | .claimAllOutputs => some (.initOutputs (defined cfg))

/-- The word of an assembly line (R88). -/
def assembleLine (cfg : Cfg) (a : Asm) : Option CmdWord := (assemble cfg a).map encode

/-! Reading text. Words are runs of characters other than blanks and commas (DESIGN CHOICE, log 16). -/

/-- A blank between words. -/
def isBlank (c : Char) : Bool := c == ' ' || c == '\t' || c == '\r'

/-- The text before a comment (R88: `;` starts one). -/
def dropComment : List Char → List Char
  | [] => []
  | c :: cs => if c == ';' then [] else c :: dropComment cs

/-- The text split at the characters `p` holds of. -/
def splitAt (p : Char → Bool) : List Char → List (List Char)
  | [] => [[]]
  | c :: cs =>
    match splitAt p cs with
    | [] => [[c]]
    | w :: ws => if p c then [] :: w :: ws else (c :: w) :: ws

/-- Blanks at both ends removed. -/
def trim (cs : List Char) : List Char := ((cs.dropWhile isBlank).reverse.dropWhile isBlank).reverse

/-- The value of a digit in a base up to 16. -/
def digit (base : Nat) (c : Char) : Option Nat :=
  let n := c.toNat
  let d := if 48 ≤ n ∧ n ≤ 57 then n - 48 else if 97 ≤ n ∧ n ≤ 102 then n - 87
    else if 65 ≤ n ∧ n ≤ 70 then n - 55 else 16
  if d < base then some d else none

/-- The value of a run of digits onto `acc`. -/
def digits (base acc : Nat) : List Char → Option Nat
  | [] => some acc
  | c :: cs => (digit base c).bind fun d => digits base (acc * base + d) cs

/-- A number in decimal or `0x` hexadecimal (R88). -/
def number : List Char → Option Nat
  | [] => none
  | '0' :: 'x' :: c :: cs => digits 16 0 (c :: cs)
  | c :: cs => digits 10 0 (c :: cs)

/-- The name of a line as R120 spells it. -/
def lineText : LineName → String
  | .oe => "oe" | .clock => "clock" | .strobe => "strobe"
  | .row0 => "row0" | .row1 => "row1" | .row2 => "row2" | .row3 => "row3" | .row4 => "row4"
  | .r1 => "r1" | .g1 => "g1" | .b1 => "b1" | .r2 => "r2" | .g2 => "g2" | .b2 => "b2"

/-- A line name. -/
def lineNamed (cs : List Char) : Option LineName := LineName.all.find? fun l => (lineText l).toList == cs

/-- A mnemonic without operands (R88, R89). -/
def asmPlain (m : List Char) : Option Asm :=
  [("init".toList, Asm.init), ("read_all".toList, .readAll), ("flush".toList, .flush),
   ("timer_init".toList, .timerInit), ("jitter_allowance".toList, .jitterAllowance),
   ("claim_all_outputs".toList, .claimAllOutputs)].lookup m

/-- A mnemonic with one number (R88). -/
def asmNumber (m : List Char) (n : Nat) : Option Asm :=
  [("init_outputs".toList, Asm.initOutputs n), ("request_inputs".toList, .requestInputs n),
   ("set_bits".toList, .setBits n), ("clear_bits".toList, .clearBits n),
   ("sleep_nanos".toList, .sleepNanos n), ("send_pulse".toList, .sendPulse n)].lookup m

/-- A mnemonic with two numbers (R88). -/
def asmNumbers (m : List Char) (a b : Nat) : Option Asm :=
  [("pulser_acquire".toList, Asm.pulserAcquire a b), ("pulser_set_width".toList, .pulserSetWidth a b)].lookup m

/-- A pseudo-instruction with a line name (R89). -/
def asmNamed (m : List Char) (l : LineName) : Option Asm :=
  [("set_line".toList, Asm.setLine l), ("clear_line".toList, .clearLine l),
   ("read_line".toList, .readLine l)].lookup m

/-- The line a mnemonic and its operand texts give (R88, R89). -/
def asmOf (m : List Char) : List (List Char) → Option Asm
  | [] => asmPlain m
  | [a] => match number a with
    | some n => asmNumber m n
    | none => (lineNamed a).bind (asmNamed m)
  | [a, b] => (number a).bind fun x => (number b).bind fun y => asmNumbers m x y
  | _ => none

/-- One line of text: a mnemonic, then operands separated by commas, then a comment (R88). `some none` is
a line without a command; `none` an assembly error. -/
def readLineText (text : List Char) : Option (Option Asm) :=
  let body := trim (dropComment text)
  if body = [] then some none
  else
    let m := body.takeWhile fun c => !isBlank c
    let rest := trim (body.dropWhile fun c => !isBlank c)
    (asmOf m (if rest = [] then [] else (splitAt (fun c => c == ',') rest).map trim)).map some

end Sys2Proof.Machine
end

