-- ==== Sys2Proof/Safety.lean ====
section
/-! DEFINITION. What counts as a safe run: the machine's invariant, a successful end of a run, and the
observation of a run. -/

namespace Sys2Proof

open Machine

/-- Every per-bank table has one entry for each bank (R29, R34). -/
abbrev Machine.State.Sized (s : State) : Prop :=
  s.wc.length = s.cfg.numBanks ∧ s.data.length = s.cfg.numBanks ∧ s.dir.length = s.cfg.numBanks

/-- The three claimed sets are pairwise disjoint (R28). -/
abbrev Machine.State.ClaimsDisjoint (s : State) : Prop :=
  s.outputs &&& s.inputs = 0#32 ∧ s.outputs &&& s.reserved = 0#32 ∧ s.inputs &&& s.reserved = 0#32

/-- Every coalescing entry is clean: what holds between commands (R139, R136). -/
abbrev Machine.State.Quiet (s : State) : Prop := ∀ e ∈ s.wc, e = WcEntry.clean

/-- A pulser has `count` entries (R33). -/
abbrev Machine.State.PulserSized (s : State) : Prop := ∀ p ∈ s.pulser.toList, p.widths.length = p.count.toNat

/-- Once started, the timing engine uses the forced profile, and its counter flag is the one of R172. -/
abbrev Machine.State.TimerChosen (s : State) : Prop :=
  s.timerInit = true → s.active = s.cfg.forcedProfile ∧
    s.counterOk = (s.cfg.counterAccessible && s.cfg.hostPrivileged)

/-- The bank table is populated only for a privileged host (R101, R102). -/
abbrev Machine.State.MappedPrivileged (s : State) : Prop := s.mapped = true → s.cfg.hostPrivileged = true

/-- FAULT holds no fault or a code detected before a command performs any event: 0x07 to 0x09 are
unreachable (R210, R214). -/
abbrev Machine.State.FaultPrecise (s : State) : Prop := s.fault.toNat ≤ 6 ∧ (s.fault = 0#8 → s.faultInfo = 0#64)

/-- The host's position is in its sequence or right after it (R23). -/
abbrev Machine.State.PositionOk (s : State) : Prop := s.position ≤ s.program.length

/-- What a set or clear writes over `x` for the physical bits `p` (R138). -/
def written (pol : Polarity) (p x : Word) : Word :=
  match pol with
  | .set => x ||| p
  | .clear => x &&& ~~~p

/-- The direction of a claimed line is the one its claim programmed (R243, R130). -/
abbrev Machine.State.DirectionsKnown (s : State) : Prop :=
  ∀ l ∈ s.cfg.lineMap,
    (s.outputs.getLsbD l.vbit = true → (s.dirOf l.bank).getLsbD l.pbit = true) ∧
    (s.inputs.getLsbD l.vbit = true → (s.dirOf l.bank).getLsbD l.pbit = false)

/-- Applying the memo's pair again would leave every data latch as it is (R136). -/
abbrev Machine.State.MemoApplied (s : State) : Prop :=
  ∀ m ∈ s.memo.toList, ∀ b < s.cfg.numBanks, written m.pol (perBank s.cfg m.mask b) (s.dataOf b) = s.dataOf b

/-- The machine's invariant, kept by every step under a well-formed configuration. -/
structure Machine.State.Inv (s : State) : Prop where
  sized : s.Sized
  claims : s.ClaimsDisjoint
  quiet : s.Quiet
  pulser : s.PulserSized
  timer : s.TimerChosen
  privileged : s.MappedPrivileged
  precise : s.FaultPrecise
  position : s.PositionOk
  directions : s.DirectionsKnown
  memo : s.MemoApplied

/-- A run that ends here ended successfully: `FAULT = 0` (R213). -/
abbrev Machine.State.Successful (s : State) : Prop := s.fault = 0#8

/-- The observation of a run (R13): the trace, and the final RESULT, FAULT and device registers. -/
structure Observation where
  trace : List Event
  result : Option Word
  fault : BitVec 8
  data : List Word
  dir : List Word
  clk : BitVec 16
deriving DecidableEq, Repr

/-- What a run that ends in `s` shows (R13). -/
def Machine.State.observe (s : State) : Observation :=
  ⟨s.trace, s.result, s.fault, s.data, s.dir, s.clk⟩

/-- A value a read of `DATA[b]` may give (R58): the latch, or the latch at output bits and any pin
levels at input bits. -/
def Machine.State.MayRead (s : State) (b : Nat) (x : Word) : Prop :=
  match s.cfg.dataReadMode with
  | .latch => x = s.dataOf b
  | .pinForInputs => ∃ pins, x = (s.dataOf b &&& s.dirOf b) ||| (pins &&& ~~~s.dirOf b)

/-- The clock-gate write `RegWrite(CRU_BASE + CLK_EN_OFFSET, CLK_GATE_WORD)` (R106). -/
def gateEvent (cfg : Cfg) : Event := .regWrite cfg.clkAddr (clkGateWord cfg)

/-- The banks a mask affects, ascending (R124). -/
def affected (cfg : Cfg) (m : Word) : List Nat := (banksAscending cfg).filter fun b => perBank cfg m b ≠ 0#32

/-- The events of one SET_BITS or CLEAR_BITS that executes, when the read of bank `b` gives `x b` (R138):
none if no bank is affected, else the clock gate and then a read and a write of each affected bank. -/
def bitsEvents (cfg : Cfg) (m : Word) (pol : Polarity) (x : Nat → Word) : List Event :=
  if affected cfg m = [] then []
  else gateEvent cfg :: (affected cfg m).flatMap fun b =>
    [.regRead (cfg.bankBase b) (x b), .regWrite (cfg.bankBase b) (written pol (perBank cfg m b) (x b))]

/-- The direction accesses of a claim, a read and a write for each pair in order, when the direction
registers hold `dirOf` before the first (R130). -/
def dirEvents (cfg : Cfg) (dirbit : Bool) (dirOf : Nat → Word) : List (Nat × Nat) → List Event
  | [] => []
  | p :: rest =>
    let d := dirOf p.1
    let d' := programDir dirbit d (bit p.2)
    Event.regRead (cfg.bankBase p.1 + 4) d :: Event.regWrite (cfg.bankBase p.1 + 4) d' ::
      dirEvents cfg dirbit (fun b => if b = p.1 then d' else dirOf b) rest

/-- The events of a claim that accepts `acc` (R130). -/
def claimEvents (cfg : Cfg) (dirbit : Bool) (dirOf : Nat → Word) (acc : Word) : List Event :=
  if resolve cfg acc = [] then [] else gateEvent cfg :: dirEvents cfg dirbit dirOf (resolve cfg acc)

/-- The events of READ_ALL when the read of bank `b` gives `x b` (R133). -/
def readAllEvents (cfg : Cfg) (x : Nat → Word) : List Event :=
  gateEvent cfg :: (affected cfg (defined cfg)).map fun b => .regRead (cfg.bankBase b) (x b)

/-- What READ_ALL aggregates (R133). -/
def readAllValue (cfg : Cfg) (x : Nat → Word) : Word :=
  orAll ((affected cfg (defined cfg)).map fun b => toVirtual cfg b (x b))

/-- The mapping event of a window (R101). -/
def mapEvent (outcome : Status) (w : Window) : Event := .map w.page w.length w.mode outcome

/-- The events of `BusyWait(ns)` under a profile (R175, R176). -/
def busyEvents (p : Profile) (ns : Nat) : List Event :=
  if ns < p.floorNs then [] else [.spin (((ns - p.offsetNs) * p.num) / p.den)]

/-! The checks of R215, stated on their own. -/

/-- The commands of check 3 of R215. -/
def needsBankTable : Instr → Bool
  | .initOutputs _ | .requestInputs _ | .readAll | .setBits _ | .clearBits _ | .flush
  | .pulserAcquire _ _ | .pulserSetWidth _ _ | .sendPulse _ => true
  | .init | .timerInit | .sleepNanos _ | .jitterAllowance => false

/-- The commands of check 4 of R215. -/
def needsTimer : Instr → Bool
  | .sleepNanos _ | .jitterAllowance | .sendPulse _ => true
  | .init | .initOutputs _ | .requestInputs _ | .readAll | .setBits _ | .clearBits _ | .flush
  | .timerInit | .pulserAcquire _ _ | .pulserSetWidth _ _ => false

/-- The entry index of the commands of checks 5 and 6 of R215. -/
def pulseIndexOf : Instr → Option (BitVec 8)
  | .pulserSetWidth idx _ => some idx
  | .sendPulse idx => some idx
  | .init | .initOutputs _ | .requestInputs _ | .readAll | .setBits _ | .clearBits _ | .flush
  | .timerInit | .sleepNanos _ | .jitterAllowance | .pulserAcquire _ _ => none

/-- The command of check 7 of R215. -/
def needsPulseWidth : Instr → Bool
  | .sendPulse _ => true
  | .init | .initOutputs _ | .requestInputs _ | .readAll | .setBits _ | .clearBits _ | .flush
  | .timerInit | .sleepNanos _ | .jitterAllowance | .pulserAcquire _ _ | .pulserSetWidth _ _ => false

/-- The code and information of the first of checks 3 to 7 of R215 that fails (R210). -/
def firstFault (i : Instr) (s : State) : Option (BitVec 8 × BitVec 64) :=
  if needsBankTable i && !s.mapped then some (0x02#8, encode i)
  else if needsTimer i && !s.timerInit then some (0x03#8, encode i)
  else
    match pulseIndexOf i with
    | none => none
    | some idx =>
      match s.pulser with
      | none => some (0x04#8, encode i)
      | some p =>
        if p.count.toNat ≤ idx.toNat then some (0x05#8, idx.setWidth 64)
        else if needsPulseWidth i && (p.widths.getD idx.toNat none).isNone then some (0x06#8, idx.setWidth 64)
        else none

/-! The shape of a command's events. -/

/-- An access to a bank register: every read (the clock-control register is never read, R107), and
every write but the clock-gate write. -/
def isBankAccess (cfg : Cfg) : Event → Bool
  | .regRead _ _ => true
  | .regWrite a v => !(a == cfg.clkAddr && v == clkGateWord cfg)
  | .map _ _ _ _ | .counterRead _ | .osSleep _ | .spin _ | .osHint _ _ | .idFileRead _ => false

/-- Every bank access among a command's events has the clock-gate write before it (R60, R250). -/
def GateFirst (cfg : Cfg) (es : List Event) : Prop :=
  ∀ pre e post, es = pre ++ e :: post → isBankAccess cfg e = true → gateEvent cfg ∈ pre

/-- Whether an event is a write to an address. -/
def isWriteTo (a : Nat) : Event → Bool
  | .regWrite p _ => p == a
  | .map _ _ _ _ | .regRead _ _ | .counterRead _ | .osSleep _ | .spin _ | .osHint _ _ | .idFileRead _ => false

end Sys2Proof
end

