-- ==== Sys2Proof/Certificates/Slice0/Obligations.lean ====
section
/-! DEFINITION. The statements for the provers, in the order of OBLIGATIONS.json: encoding, step and
reset, whole-machine rules, device registers, the line map, one statement of the result of each
command, faults, and the properties of section 5 of 42_controller.md. -/

open Sys2Proof Sys2Proof.Machine

/-! Encoding. -/

/-- Decoding the word of a command gives the command, for every command and every operand value. -/
def Obligations.DecodeOfEncodeIsTheCommand : Prop :=
  ∀ i : Instr, decode (encode i) = .command i

/-- A word that decodes to a command is that command's word: no bit of a word is dropped. -/
def Obligations.EncodeOfDecodeIsTheWord : Prop :=
  ∀ (w : CmdWord) (i : Instr), decode w = .command i → encode i = w

/-- R84: a word encodes command `c`, with whatever operands, exactly when its masked bits are `match(c)`. -/
def Obligations.MaskAndMatchSelectTheCommand : Prop :=
  ∀ (w : CmdWord) (c : Instr),
    w &&& (formatOfCommand c).maskBits = matchBits c ↔
      ∃ i, decode w = .command i ∧ opcode i = opcode c

/-- R85: decoding answers the command whose pair the word satisfies, or ILLEGAL when there is none; no two
commands match one word; and an ILLEGAL word raises ILLEGAL_COMMAND and changes nothing else. -/
def Obligations.DecodingIsTotalAndIllegalWordsRaise : Prop :=
  (∀ w : CmdWord,
    (∃ c, w &&& (formatOfCommand c).maskBits = matchBits c ∧ decode w = .command c) ∨
    ((∀ c, w &&& (formatOfCommand c).maskBits ≠ matchBits c) ∧ ∃ why, decode w = .illegal why)) ∧
  (∀ (w : CmdWord) (c d : Instr), w &&& (formatOfCommand c).maskBits = matchBits c →
    w &&& (formatOfCommand d).maskBits = matchBits d → opcode c = opcode d) ∧
  (∀ (s : State) (w : CmdWord) (why : Illegal), s.cfg.wellFormed = true → s.cfg.inAddressSpace = true →
    s.fault = 0#8 → s.program[s.position]? = some w → decode w = .illegal why →
    step s = .next { s with fault := 0x01#8, faultInfo := w })

/-- Words of 95_test_vectors.md section 2.1, written out, decode to what the table says. -/
def Obligations.WordsOfTheVectorsDecode : Prop :=
  decode 0x0000000000000001#64 = .command .init ∧
  decode 0x0002000000000005#64 = .command (.setBits 0x00020000#32) ∧
  decode 0x0000000000000522#64 = .command (.sendPulse 5#8) ∧
  decode 0xFFFFFFFF0000FF20#64 = .command (.pulserAcquire 255#8 0xFFFFFFFF#32) ∧
  decode 0x0000C35000000011#64 = .command (.sleepNanos 50000#32) ∧
  decode 0x0000008200000121#64 = .command (.pulserSetWidth 1#8 130#32) ∧
  decode 0x0000000000000000#64 = .illegal .unassignedOpcode ∧
  decode 0x0002000000010005#64 = .illegal .reservedNotZero

/-- R63, D40: byte `k` in transport holds bits `8k+7 : 8k`, and the eight bytes decode as the word. -/
def Obligations.CommandWordsTravelLittleEndian : Prop :=
  ∀ w : CmdWord, decodeBytes (bytesOf w) = some (decode w, []) ∧
    ∀ k < 8, (bytesOf w)[k]? = some (w.extractLsb' (8 * k) 8)

/-- R88: the word of each assembly line from its operands, and an assembly error for a number of any size
that does not fit its field, in every operand of every line, whatever the other operand is. -/
def Obligations.AssemblyLinesGiveTheirWords : Prop :=
  (∀ (cfg : Cfg) (m n k : Nat), m < 2 ^ 32 → n < 2 ^ 32 → k < 2 ^ 8 →
    assembleLine cfg .init = some 0x1#64 ∧
    assembleLine cfg (.initOutputs m) = some ((BitVec.ofNat 64 m <<< 32) ||| 0x02#64) ∧
    assembleLine cfg (.requestInputs m) = some ((BitVec.ofNat 64 m <<< 32) ||| 0x03#64) ∧
    assembleLine cfg .readAll = some 0x4#64 ∧
    assembleLine cfg (.setBits m) = some ((BitVec.ofNat 64 m <<< 32) ||| 0x05#64) ∧
    assembleLine cfg (.clearBits m) = some ((BitVec.ofNat 64 m <<< 32) ||| 0x06#64) ∧
    assembleLine cfg .flush = some 0x7#64 ∧
    assembleLine cfg .timerInit = some 0x10#64 ∧
    assembleLine cfg (.sleepNanos n) = some ((BitVec.ofNat 64 n <<< 32) ||| 0x11#64) ∧
    assembleLine cfg .jitterAllowance = some 0x12#64 ∧
    assembleLine cfg (.pulserAcquire m k) =
      some ((BitVec.ofNat 64 m <<< 32) ||| (BitVec.ofNat 64 k <<< 8) ||| 0x20#64) ∧
    assembleLine cfg (.pulserSetWidth k n) =
      some ((BitVec.ofNat 64 n <<< 32) ||| (BitVec.ofNat 64 k <<< 8) ||| 0x21#64) ∧
    assembleLine cfg (.sendPulse k) = some ((BitVec.ofNat 64 k <<< 8) ||| 0x22#64)) ∧
  (∀ (cfg : Cfg) (x y : Nat), 2 ^ 32 ≤ x →
    assembleLine cfg (.initOutputs x) = none ∧ assembleLine cfg (.requestInputs x) = none ∧
    assembleLine cfg (.setBits x) = none ∧ assembleLine cfg (.clearBits x) = none ∧
    assembleLine cfg (.sleepNanos x) = none ∧ assembleLine cfg (.pulserAcquire x y) = none ∧
    assembleLine cfg (.pulserSetWidth y x) = none) ∧
  (∀ (cfg : Cfg) (x y : Nat), 2 ^ 8 ≤ x →
    assembleLine cfg (.pulserAcquire y x) = none ∧ assembleLine cfg (.pulserSetWidth x y) = none ∧
    assembleLine cfg (.sendPulse x) = none)

/-- R89: the pseudo-instructions of a line of the map, the claim of all outputs, and the bit the host takes
after `read_line`. -/
def Obligations.PseudoInstructionsExpand : Prop :=
  ∀ (cfg : Cfg) (l : Line), cfg.wellFormed = true → l ∈ cfg.lineMap →
    assemble cfg (.setLine l.name) = some (.setBits (1#32 <<< l.vbit)) ∧
    assemble cfg (.clearLine l.name) = some (.clearBits (1#32 <<< l.vbit)) ∧
    assemble cfg (.readLine l.name) = some .readAll ∧
    (∃ m, assemble cfg .claimAllOutputs = some (.initOutputs m) ∧
      ∀ k < 32, m.getLsbD k = true ↔ ∃ l' ∈ cfg.lineMap, l'.vbit = k) ∧
    (∀ (s : State) (v : Word), s.cfg = cfg → s.result = some v →
      hostReadLine l.name s = .next (v.getLsbD l.vbit))

/-! Step, reset and the invariant. -/

/-- One step is the decoded command's meaning, with the host's position advanced by one when the command
ends without fault and held otherwise (R7, R23, R212). -/
def Obligations.StepRunsTheDecodedCommand : Prop :=
  ∀ (s : State) (w : CmdWord) (i : Instr), s.cfg.wellFormed = true → s.cfg.inAddressSpace = true →
    s.fault = 0#8 → s.program[s.position]? = some w → decode w = .command i →
    step s = match exec i s with
      | .next t => .next (if t.fault = 0#8 then { t with position := t.position + 1 } else t)
      | .fault f => .fault f
      | .refused r => .refused r

/-- R213: a block with a fault takes no step, whatever the host has issued; a start of the process begins
without fault. -/
def Obligations.FaultedBlockTakesNoStep : Prop :=
  (∀ s t : State, s.fault ≠ 0#8 → step s ≠ .next t) ∧
  (∀ s : State, s.cfg.wellFormed = true → s.cfg.inAddressSpace = true → s.fault ≠ 0#8 →
    step s = .fault (.stuck s.fault)) ∧
  (∀ (cfg : Cfg) (d : ResetDraws), (State.boot cfg d).fault = 0#8 ∧ (State.boot cfg d).faultInfo = 0#64)

/-- R10: a configuration is well formed exactly when the eight clauses hold, and a configuration that is
not takes no step. -/
def Obligations.OnlyWellFormedConfigurationsStep : Prop :=
  (∀ cfg : Cfg, cfg.wellFormed = true ↔
    (9 ≤ cfg.banks.length ∧
      (∀ k ∈ cfg.banks, k.base % 4 = 0 ∧ k.base % cfg.pageSize ≤ cfg.pageSize - 8) ∧
      (cfg.banks.map BankCfg.base).Nodup) ∧
    (cfg.cruBase + cfg.clkEnOffset) % 4 = 0 ∧
    (cfg.lineMap.map Line.name = [.oe, .clock, .strobe, .row0, .row1, .row2, .row3, .row4,
        .r1, .g1, .b1, .r2, .g2, .b2] ∧
      (∀ l ∈ cfg.lineMap, l.vbit < 32 ∧ l.bank < cfg.banks.length ∧ l.pbit < 32) ∧
      (cfg.lineMap.map Line.vbit).Nodup ∧ (cfg.lineMap.map fun l => (l.bank, l.pbit)).Nodup ∧
      (⟨.clock, 17, 8, 6⟩ : Line) ∈ cfg.lineMap) ∧
    cfg.reservedInit < 2 ^ 32 ∧
    (cfg.profiles ≠ [] ∧ cfg.defaultProfile < cfg.profiles.length ∧
      cfg.forcedProfile < cfg.profiles.length ∧
      (∀ c p, cfg.detect.lookup c = some p → p < cfg.profiles.length) ∧
      ∀ p ∈ cfg.profiles, 0 < p.den ∧ p.num < 2 ^ 31 ∧ p.jitterNs < 2 ^ 32) ∧
    cfg.ncOverheadNs ≤ cfg.ncThresholdNs ∧
    ((∃ k, cfg.pageSize = 2 ^ k) ∧ 8 ≤ cfg.pageSize) ∧
    (∀ w < 2 ^ 32, (cfg.pulseCalibration.lookup w).getD w < 2 ^ 32)) ∧
  (∀ s : State, s.cfg.wellFormed = false → step s = .refused .illFormedConfig)

/-- R241: a block with no command pending waits (that a waiting step leaves the state as it is, is the
model's choice: log 5). -/
def Obligations.BlockWithoutACommandWaits : Prop :=
  ∀ s : State, s.cfg.wellFormed = true → s.cfg.inAddressSpace = true → s.fault = 0#8 →
    s.program[s.position]? = none → step s = .next s

/-- R40: the state right after reset, for every configuration; what the table leaves unspecified is any
draw. -/
def Obligations.ResetLeavesTheTable : Prop :=
  ∀ (cfg : Cfg) (d : ResetDraws),
    (State.boot cfg d).result = none ∧ (State.boot cfg d).fault = 0#8 ∧
    (State.boot cfg d).faultInfo = 0#64 ∧ (State.boot cfg d).mapped = false ∧
    (State.boot cfg d).outputs = 0#32 ∧ (State.boot cfg d).inputs = 0#32 ∧
    (State.boot cfg d).reserved = BitVec.ofNat 32 cfg.reservedInit ∧
    (State.boot cfg d).wc = List.replicate cfg.banks.length ⟨0#32, .set, false, false⟩ ∧
    (State.boot cfg d).memo = none ∧ (State.boot cfg d).timerInit = false ∧
    (State.boot cfg d).detected = .none ∧ (State.boot cfg d).active = d.active ∧
    (State.boot cfg d).counterOk = d.counterOk ∧ (State.boot cfg d).pulser = none ∧
    (∀ b < cfg.banks.length, (State.boot cfg d).data[b]? = some (d.data.getD b 0#32) ∧
      (State.boot cfg d).dir[b]? = some (d.dir.getD b 0#32)) ∧
    (State.boot cfg d).clk = d.clk ∧ (State.boot cfg d).time = d.time ∧
    (State.boot cfg d).phase0 = d.phase0 ∧ (State.boot cfg d).trace = []

/-- The invariant holds after reset, for every configuration and every draw; and of the model's own
`State.reset` (the fixture of log 1), whose configuration is admitted. -/
def Obligations.ResetMeetsTheInvariant : Prop :=
  (∀ (cfg : Cfg) (d : ResetDraws), (State.boot cfg d).Inv) ∧ State.reset.Inv ∧
    State.reset.cfg.wellFormed = true ∧ State.reset.cfg.inAddressSpace = true

/-- Every step keeps the invariant: table sizes, disjoint claims, clean coalescing entries, the pulser's
size, the timing engine's choice, privilege, precise fault codes, the position, known directions of
claimed lines, and the memo's truth. -/
def Obligations.StepKeepsTheInvariant : Prop :=
  ∀ s t : State, s.Inv → step s = .next t → t.Inv

/-- R214: under the invariant a step that raises a fault leaves the state before the command plus FAULT and
FAULT_INFO, and the code is one of 0x01 to 0x06: the codes 0x07 to 0x09 are unreachable. -/
def Obligations.FaultsArePrecise : Prop :=
  ∀ s t : State, s.Inv → step s = .next t → t.fault ≠ 0#8 →
    t = { s with fault := t.fault, faultInfo := t.faultInfo } ∧ 1 ≤ t.fault.toNat ∧ t.fault.toNat ≤ 6

/-- Every step, from every state, keeps the configuration, the host's program and the counter phase, only
extends the trace, and does not turn time back. -/
def Obligations.StepOnlyExtendsHistory : Prop :=
  ∀ s t : State, step s = .next t →
    t.cfg = s.cfg ∧ t.program = s.program ∧ t.phase0 = s.phase0 ∧ s.trace <+: t.trace ∧ s.time ≤ t.time

/-! Whole-machine rules. -/

/-- R27: `outputs` is written only by INIT_OUTPUTS, `inputs` only by REQUEST_INPUTS, `reserved` by no command;
each set only grows; and their reset values. -/
def Obligations.ClaimedSetsOnlyGrow : Prop :=
  (∀ (i : Instr) (s t : State), exec i s = .next t →
    (t.outputs ≠ s.outputs → ∃ m, i = .initOutputs m) ∧
    (t.inputs ≠ s.inputs → ∃ m, i = .requestInputs m) ∧
    t.reserved = s.reserved ∧
    s.outputs &&& t.outputs = s.outputs ∧ s.inputs &&& t.inputs = s.inputs) ∧
  (∀ (cfg : Cfg) (d : ResetDraws), (State.boot cfg d).outputs = 0#32 ∧ (State.boot cfg d).inputs = 0#32 ∧
    (State.boot cfg d).reserved = BitVec.ofNat 32 cfg.reservedInit)

/-- R28: the three claimed sets stay pairwise disjoint, whatever the command, from any state where they
are; and they are after reset. -/
def Obligations.ClaimedSetsStayDisjoint : Prop :=
  (∀ (i : Instr) (s t : State), exec i s = .next t →
    s.outputs &&& s.inputs = 0#32 → s.outputs &&& s.reserved = 0#32 → s.inputs &&& s.reserved = 0#32 →
    t.outputs &&& t.inputs = 0#32 ∧ t.outputs &&& t.reserved = 0#32 ∧ t.inputs &&& t.reserved = 0#32) ∧
  (∀ (cfg : Cfg) (d : ResetDraws), (State.boot cfg d).ClaimsDisjoint)

/-- R20: RESULT is written only by the six commands whose rules say so; it is `none` at reset, and a host that
reads it then gets a fault, not a value. -/
def Obligations.ResultWrittenOnlyByItsCommands : Prop :=
  (∀ (i : Instr) (s t : State), exec i s = .next t → t.result ≠ s.result →
    i = .init ∨ (∃ m, i = .initOutputs m) ∨ (∃ m, i = .requestInputs m) ∨ i = .readAll ∨ i = .timerInit ∨
      i = .jitterAllowance) ∧
  (∀ (cfg : Cfg) (d : ResetDraws), (State.boot cfg d).result = none) ∧
  (∀ s : State, s.result = none → hostReadResult s = .fault .resultInvalid) ∧
  (∀ (s : State) (v : Word), s.result = some v → hostReadResult s = .next v)

/-- R24, R29, R31 to R35, R23: which commands write the bank-table flag, the coalescing entries, the memo, the
timing engine, the pulser and the device registers; the flags of the bank table and of the timing engine are
never unset; no command's meaning moves the host's position; and INIT and TIMER_INIT raise no fault (R102,
R172). RESULT and the claimed sets have statements of their own (R20, R27). -/
def Obligations.OnlyNamedCommandsWriteEachField : Prop :=
  ∀ (i : Instr) (s t : State), exec i s = .next t →
    (t.mapped ≠ s.mapped → i = .init) ∧ (s.mapped = true → t.mapped = true) ∧
    (t.wc ≠ s.wc →
      (∃ m, i = .setBits m) ∨ (∃ m, i = .clearBits m) ∨ i = .flush ∨ ∃ k, i = .sendPulse k) ∧
    (t.memo ≠ s.memo → (∃ m, i = .setBits m) ∨ (∃ m, i = .clearBits m) ∨ ∃ k, i = .sendPulse k) ∧
    ((t.timerInit, t.detected, t.active, t.counterOk) ≠ (s.timerInit, s.detected, s.active, s.counterOk) →
      i = .timerInit) ∧ (s.timerInit = true → t.timerInit = true) ∧
    (t.pulser ≠ s.pulser → (∃ k m, i = .pulserAcquire k m) ∨ ∃ k n, i = .pulserSetWidth k n) ∧
    (t.data ≠ s.data →
      (∃ m, i = .setBits m) ∨ (∃ m, i = .clearBits m) ∨ i = .flush ∨ ∃ k, i = .sendPulse k) ∧
    (t.dir ≠ s.dir → (∃ m, i = .initOutputs m) ∨ ∃ m, i = .requestInputs m) ∧
    (t.clk ≠ s.clk → (∃ m, i = .initOutputs m) ∨ (∃ m, i = .requestInputs m) ∨ i = .readAll ∨
      (∃ m, i = .setBits m) ∨ (∃ m, i = .clearBits m) ∨ i = .flush ∨ ∃ k, i = .sendPulse k) ∧
    t.position = s.position ∧
    ((t.fault, t.faultInfo) ≠ (s.fault, s.faultInfo) → i ≠ .init ∧ i ≠ .timerInit)

/-- R250, R60: whatever the command and the state, every bank access among the events a command adds has the
clock-gate write of the same command before it. -/
def Obligations.ClockGatePrecedesEveryBankAccess : Prop :=
  ∀ (i : Instr) (s t : State), exec i s = .next t →
    ∃ es, t.trace = s.trace ++ es ∧ GateFirst s.cfg es

/-! Windows and device registers. -/

/-- R52, R55: the window of a 4-aligned address is one page, starts at the containing page, and its base is
the address. R25, R56: in both windows of the bank of entry `b` of the table, the data register stands at that
entry's base and the direction register one word on, and both lie inside; the clock-control register stands
inside its windows. -/
def Obligations.WindowsCoverTheirRegisters : Prop :=
  ∀ cfg : Cfg, cfg.wellFormed = true →
    (∀ (t : Target) (a : Nat) (m : Mode), a % 4 = 0 →
      (windowAt cfg t a m).page = a / cfg.pageSize * cfg.pageSize ∧
      (windowAt cfg t a m).off = a % cfg.pageSize ∧
      (windowAt cfg t a m).length = cfg.pageSize ∧
      ∀ idx, (windowAt cfg t a m).paddr idx = a + 4 * idx) ∧
    (∀ (b : Nat) (k : BankCfg), cfg.banks[b]? = some k → cfg.bankBase b = k.base ∧
      ∀ w ∈ [readWindow cfg b, writeWindow cfg b], w.target = .bank b ∧
        w.paddr 0 = k.base ∧ w.paddr 1 = k.base + 4 ∧ w.covers 0 = true ∧ w.covers 1 = true) ∧
    (∀ w ∈ [clockReadWindow cfg, clockWriteWindow cfg], w.target = .clock ∧
      w.paddr 0 = cfg.cruBase + cfg.clkEnOffset ∧ w.covers 0 = true)

/-- R61, R62: an access against the window's mode or outside it raises WINDOW_ACCESS, and a bank access before
the clock gate raises CLOCK_NOT_ENABLED, with nothing else written. FAULT_INFO is the low 64 bits of the
physical address: the address itself where it is below 2^64, and the model's choice beyond (log 13). -/
def Obligations.AccessChecksRaise : Prop :=
  ∀ (w : Window) (idx : Nat) (v : Word) (r : Run),
    (w.mode = .write ∨ w.off + 4 * idx + 4 > w.length →
      devRead w idx r = .raised { r.st with fault := 0x09#8, faultInfo := BitVec.ofNat 64 (w.paddr idx) }) ∧
    (w.mode = .read ∨ w.off + 4 * idx + 4 > w.length →
      devWrite w idx v r = .raised { r.st with fault := 0x09#8, faultInfo := BitVec.ofNat 64 (w.paddr idx) }) ∧
    (∀ b, w.target = .bank b → r.gated = false → w.off + 4 * idx + 4 ≤ w.length →
      (w.mode = .read →
        devRead w idx r = .raised { r.st with fault := 0x08#8, faultInfo := BitVec.ofNat 64 (w.paddr idx) }) ∧
      (w.mode = .write →
        devWrite w idx v r = .raised { r.st with fault := 0x08#8, faultInfo := BitVec.ofNat 64 (w.paddr idx) }))

/-- R57: a write of a bank's data or direction register replaces that register and no other; R62 records it. -/
def Obligations.BankWritesReplaceTheRegister : Prop :=
  ∀ (r : Run) (b : Nat) (v : Word), r.st.cfg.wellFormed = true → r.st.Sized → r.gated = true →
    b < r.st.cfg.numBanks →
    (∃ t, devWrite (writeWindow r.st.cfg b) 0 v r = .ok () ⟨t, true⟩ ∧ t.dataOf b = v ∧
      (∀ c, c ≠ b → t.dataOf c = r.st.dataOf c) ∧ t.dir = r.st.dir ∧ t.clk = r.st.clk ∧
      t.trace = r.st.trace ++ [.regWrite (r.st.cfg.bankBase b) v]) ∧
    (∃ t, devWrite (writeWindow r.st.cfg b) 1 v r = .ok () ⟨t, true⟩ ∧ t.dirOf b = v ∧
      (∀ c, c ≠ b → t.dirOf c = r.st.dirOf c) ∧ t.data = r.st.data ∧ t.clk = r.st.clk ∧
      t.trace = r.st.trace ++ [.regWrite (r.st.cfg.bankBase b + 4) v])

/-- R58: a direction read gives the register; a data read gives the latch, or under PIN_FOR_INPUTS the latch
at output bits and some pin levels at input bits, which are the environment's next answer where it has one
and are then used up (this last clause, that the answers are a list of State.env, is the model's choice:
log 6); no latch changes. -/
def Obligations.BankReadsFollowTheReadMode : Prop :=
  ∀ (r : Run) (b : Nat), r.st.cfg.wellFormed = true → r.gated = true → b < r.st.cfg.numBanks →
    (∃ t, devRead (readWindow r.st.cfg b) 1 r = .ok (r.st.dirOf b) ⟨t, true⟩ ∧
      t.data = r.st.data ∧ t.dir = r.st.dir ∧ t.clk = r.st.clk ∧
      t.trace = r.st.trace ++ [.regRead (r.st.cfg.bankBase b + 4) (r.st.dirOf b)]) ∧
    (∃ x t, devRead (readWindow r.st.cfg b) 0 r = .ok x ⟨t, true⟩ ∧ t.data = r.st.data ∧ t.dir = r.st.dir ∧
      t.clk = r.st.clk ∧
      t.trace = r.st.trace ++ [.regRead (r.st.cfg.bankBase b) x] ∧
      (r.st.cfg.dataReadMode = .latch → x = r.st.dataOf b) ∧
      (r.st.cfg.dataReadMode = .pinForInputs → ∃ pins,
        x = (r.st.dataOf b &&& r.st.dirOf b) ||| (pins &&& ~~~r.st.dirOf b)) ∧
      (r.st.cfg.dataReadMode = .pinForInputs → ∀ pins rest, r.st.env.pins = pins :: rest →
        x = (r.st.dataOf b &&& r.st.dirOf b) ||| (pins &&& ~~~r.st.dirOf b) ∧ t.env.pins = rest))

/-- R59: a write of the clock-control register changes bit `i` of the gate field exactly where bit `16 + i`
of the written word enables it. R105, R106: the word of the clock gate has CLK_VALUE in its lower and CLK_MASK
in its upper half, and the clock gate is the write of it. -/
def Obligations.ClockGateWritesBitByBit : Prop :=
  (∀ cfg : Cfg, gateEvent cfg = .regWrite (cfg.cruBase + cfg.clkEnOffset) (clkGateWord cfg) ∧
    ∀ i < 16, (clkGateWord cfg).getLsbD i = cfg.clkValue.getLsbD i ∧
      (clkGateWord cfg).getLsbD (16 + i) = cfg.clkMask.getLsbD i) ∧
  (∀ r : Run, r.st.cfg.wellFormed = true →
    ∃ t, clockEnable r = .ok () ⟨t, true⟩ ∧
      (∀ i < 16, t.clk.getLsbD i =
        if r.st.cfg.clkMask.getLsbD i then r.st.cfg.clkValue.getLsbD i else r.st.clk.getLsbD i) ∧
      t.data = r.st.data ∧ t.dir = r.st.dir ∧ t.trace = r.st.trace ++ [gateEvent r.st.cfg]) ∧
  (∀ (r : Run) (v : Word), r.st.cfg.wellFormed = true →
    ∃ t g, devWrite (clockWriteWindow r.st.cfg) 0 v r = .ok () ⟨t, g⟩ ∧
      (∀ i < 16, t.clk.getLsbD i = if v.getLsbD (16 + i) then v.getLsbD i else r.st.clk.getLsbD i) ∧
      t.data = r.st.data ∧ t.dir = r.st.dir ∧
      t.trace = r.st.trace ++ [.regWrite (r.st.cfg.cruBase + r.st.cfg.clkEnOffset) v])

/-! The line map. -/

/-- `DEFINED` is the mask of the defined lines and has exactly 14 bits (R122). -/
def Obligations.FourteenLinesAreDefined : Prop :=
  ∀ cfg : Cfg, cfg.wellFormed = true →
    (∀ k < 32, (defined cfg).getLsbD k = true ↔ ∃ l ∈ cfg.lineMap, l.vbit = k) ∧
    (List.range 32).countP (fun k => (defined cfg).getLsbD k) = 14

/-- R123, R126: `resolve` gives the pair of each line whose virtual bit is set, in line-map order, each pair
once; no mask gives none, and bits without a line are ignored, as in the rule's example of the clock line. -/
def Obligations.UndefinedBitsAreIgnored : Prop :=
  ∀ (cfg : Cfg) (m : Word), cfg.wellFormed = true →
    resolve cfg m = (cfg.lineMap.filterMap fun l =>
      if m.getLsbD l.vbit then some (l.bank, l.pbit) else none) ∧
    (resolve cfg m).Nodup ∧
    resolve cfg 0#32 = [] ∧
    resolve cfg m = resolve cfg (m &&& defined cfg) ∧
    (m &&& defined cfg = 0#32 → resolve cfg (0x00020000#32 ||| m) = [(8, 6)]) ∧
    (∀ b p, (b, p) ∈ resolve cfg m ↔ ∃ l ∈ cfg.lineMap, l.bank = b ∧ l.pbit = p ∧ m.getLsbD l.vbit = true)

/-- R124: the bits of `perBank(m)[b]` are the resolved pairs of bank `b`, one for each line of `m` in that
bank. -/
def Obligations.PerBankHasOneBitPerLine : Prop :=
  ∀ (cfg : Cfg) (m : Word) (b : Nat), cfg.wellFormed = true →
    (∀ k < 32, (perBank cfg m b).getLsbD k = true ↔ (b, k) ∈ resolve cfg m) ∧
    (List.range 32).countP (fun k => (perBank cfg m b).getLsbD k) =
      cfg.lineMap.countP fun l => l.bank == b && m.getLsbD l.vbit

/-! The commands, one result each. -/

/-- R104: a successful INIT adds exactly `2 * NUM_BANKS + 2` events, all of them mappings that succeeded, and
a later INIT adds none: RESULT is 0 and nothing else changes (R102). -/
def Obligations.InitAgainChangesNothing : Prop :=
  (∀ s : State, s.mapped = true → exec .init s = .next { s with result := some 0#32 }) ∧
  (∀ s t : State, s.mapped = false → exec .init s = .next t → t.mapped = true →
    (∃ es, t.trace = s.trace ++ es ∧ es.length = 2 * s.cfg.numBanks + 2 ∧
      ∀ e ∈ es, ∃ page length mode, e = .map page length mode .ok) ∧
    exec .init t = .next { t with result := some 0#32 })

/-- INIT when the environment grants every mapping: two windows a bank, banks ascending, read before write,
the clock-control register last; `2 * NUM_BANKS + 2` mapping events and nothing else (R102, R104). That the
environment's answers are a list of State.env, which the hypothesis names, is the model's choice (log 6). -/
def Obligations.InitMapsEveryWindow : Prop :=
  ∀ (s : State) (rest : List Status), s.mapped = false → s.cfg.hostPrivileged = true →
    s.env.mapOutcomes = List.replicate (2 * s.cfg.numBanks + 2) .ok ++ rest →
    ∃ t, exec .init s = .next t ∧
      t = { s with mapped := true, result := some 0#32, trace := t.trace, time := t.time, env := t.env } ∧
      s.time ≤ t.time ∧
      t.trace = s.trace ++
        ((List.range s.cfg.numBanks).flatMap (fun b =>
            [mapEvent .ok (windowAt s.cfg (.bank b) (s.cfg.bankBase b) .read),
             mapEvent .ok (windowAt s.cfg (.bank b) (s.cfg.bankBase b) .write)]) ++
          [mapEvent .ok (windowAt s.cfg .clock s.cfg.clkAddr .read),
           mapEvent .ok (windowAt s.cfg .clock s.cfg.clkAddr .write)])

/-- INIT in every case: either every window of the fixed order was mapped and the table is populated, or the
first failed mapping ended it with RESULT 1 and no table; an unprivileged host fails at the first
(R101, R102, R103). -/
def Obligations.InitFailsFast : Prop :=
  ∀ s : State, s.mapped = false →
    ∃ t, exec .init s = .next t ∧
      t = { s with mapped := t.mapped, result := t.result, trace := t.trace, time := t.time, env := t.env } ∧
      ((t.mapped = true ∧ t.result = some 0#32 ∧ s.cfg.hostPrivileged = true ∧
          t.trace = s.trace ++ (initWindows s.cfg).map (mapEvent .ok)) ∨
       (t.mapped = false ∧ t.result = some 1#32 ∧ ∃ k w, (initWindows s.cfg)[k]? = some w ∧
          t.trace = s.trace ++ ((initWindows s.cfg).take k).map (mapEvent .ok) ++ [mapEvent .fail w])) ∧
      (s.cfg.hostPrivileged = false →
        t.trace = s.trace ++ ((initWindows s.cfg).take 1).map (mapEvent .fail) ∧ t.result = some 1#32)

/-- INIT_OUTPUTS: before INIT a fault; else the accepted subset is granted, its lines' direction bits are set
by one read-modify-write each in line-map order after the clock gate, and nothing else changes
(R130, R131). -/
def Obligations.InitOutputsGrantsAndPrograms : Prop :=
  (∀ (s : State) (m : Word), s.mapped = false →
    exec (.initOutputs m) s = .next { s with fault := 0x02#8, faultInfo := encode (.initOutputs m) }) ∧
  (∀ (s : State) (m acc : Word), s.cfg.wellFormed = true → s.Sized → s.mapped = true →
    acc = m &&& ~~~(s.outputs ||| s.inputs ||| s.reserved) →
    ∃ t, exec (.initOutputs m) s = .next t ∧
      t = { s with outputs := s.outputs ||| acc, result := some acc, dir := t.dir, clk := t.clk,
                   trace := t.trace, time := t.time, env := t.env } ∧
      t.dir.length = s.dir.length ∧ s.time ≤ t.time ∧
      (∀ b, t.dirOf b = s.dirOf b ||| perBank s.cfg acc b) ∧
      t.clk = (if resolve s.cfg acc = [] then s.clk else gateField s.clk (clkGateWord s.cfg)) ∧
      t.trace = s.trace ++ claimEvents s.cfg true s.dirOf acc)

/-- REQUEST_INPUTS: as INIT_OUTPUTS with the direction bits cleared and `inputs` extended (R130, R132). -/
def Obligations.RequestInputsGrantsAndPrograms : Prop :=
  (∀ (s : State) (m : Word), s.mapped = false →
    exec (.requestInputs m) s = .next { s with fault := 0x02#8, faultInfo := encode (.requestInputs m) }) ∧
  (∀ (s : State) (m acc : Word), s.cfg.wellFormed = true → s.Sized → s.mapped = true →
    acc = m &&& ~~~(s.outputs ||| s.inputs ||| s.reserved) →
    ∃ t, exec (.requestInputs m) s = .next t ∧
      t = { s with inputs := s.inputs ||| acc, result := some acc, dir := t.dir, clk := t.clk,
                   trace := t.trace, time := t.time, env := t.env } ∧
      t.dir.length = s.dir.length ∧ s.time ≤ t.time ∧
      (∀ b, t.dirOf b = s.dirOf b &&& ~~~perBank s.cfg acc b) ∧
      t.clk = (if resolve s.cfg acc = [] then s.clk else gateField s.clk (clkGateWord s.cfg)) ∧
      t.trace = s.trace ++ claimEvents s.cfg false s.dirOf acc)

/-- READ_ALL: before INIT a fault; else the clock gate, one data read of each involved bank in ascending order,
and in RESULT the bit of each line whose physical bit its bank's read gave, and no other (R125); no device
register but the gate field changes (R133). -/
def Obligations.ReadAllAggregatesTheBanks : Prop :=
  (∀ s : State, s.mapped = false →
    exec .readAll s = .next { s with fault := 0x02#8, faultInfo := 0x4#64 }) ∧
  (∀ s : State, s.cfg.wellFormed = true → s.mapped = true →
    ∃ (t : State) (x : Nat → Word) (v : Word), exec .readAll s = .next t ∧
      t = { s with result := some v, clk := t.clk, trace := t.trace, time := t.time,
                   env := t.env } ∧
      s.time ≤ t.time ∧ t.clk = gateField s.clk (clkGateWord s.cfg) ∧
      (∀ b ∈ affected s.cfg (defined s.cfg), s.MayRead b (x b)) ∧
      (∀ k < 32, v.getLsbD k = true ↔
        ∃ l ∈ s.cfg.lineMap, l.vbit = k ∧ (x l.bank).getLsbD l.pbit = true) ∧
      v &&& ~~~defined s.cfg = 0#32 ∧
      t.trace = s.trace ++ readAllEvents s.cfg x)

/-- SET_BITS: before INIT a fault; a repeat of the memo's pair changes nothing; else nothing is accessed if no
bank is affected, or the clock gate is written and exactly one read and one write of each affected bank
follow, ascending, `register |= bits`; then the memo. No other bank, register or field changes (R134). -/
def Obligations.SetBitsWritesAffectedBanks : Prop :=
  (∀ (s : State) (m : Word), s.mapped = false →
    exec (.setBits m) s = .next { s with fault := 0x02#8, faultInfo := encode (.setBits m) }) ∧
  (∀ (s : State) (m : Word), s.mapped = true → s.memo = some ⟨m, .set⟩ → exec (.setBits m) s = .next s) ∧
  (∀ (s : State) (m : Word), s.cfg.wellFormed = true → s.Sized → s.Quiet → s.mapped = true →
    s.memo ≠ some ⟨m, .set⟩ →
    ∃ (t : State) (x : Nat → Word), exec (.setBits m) s = .next t ∧
      t = { s with data := t.data, clk := t.clk, memo := some ⟨m, .set⟩, trace := t.trace, time := t.time,
                   env := t.env } ∧
      t.data.length = s.data.length ∧ s.time ≤ t.time ∧
      (∀ b, perBank s.cfg m b ≠ 0#32 → s.MayRead b (x b) ∧ t.dataOf b = x b ||| perBank s.cfg m b) ∧
      (∀ b, perBank s.cfg m b = 0#32 → t.dataOf b = s.dataOf b) ∧
      t.clk = (if affected s.cfg m = [] then s.clk else gateField s.clk (clkGateWord s.cfg)) ∧
      t.trace = s.trace ++ bitsEvents s.cfg m .set x)

/-- CLEAR_BITS: as SET_BITS with `register &= ~bits` (R135). -/
def Obligations.ClearBitsWritesAffectedBanks : Prop :=
  (∀ (s : State) (m : Word), s.mapped = false →
    exec (.clearBits m) s = .next { s with fault := 0x02#8, faultInfo := encode (.clearBits m) }) ∧
  (∀ (s : State) (m : Word), s.mapped = true → s.memo = some ⟨m, .clear⟩ → exec (.clearBits m) s = .next s) ∧
  (∀ (s : State) (m : Word), s.cfg.wellFormed = true → s.Sized → s.Quiet → s.mapped = true →
    s.memo ≠ some ⟨m, .clear⟩ →
    ∃ (t : State) (x : Nat → Word), exec (.clearBits m) s = .next t ∧
      t = { s with data := t.data, clk := t.clk, memo := some ⟨m, .clear⟩, trace := t.trace, time := t.time,
                   env := t.env } ∧
      t.data.length = s.data.length ∧ s.time ≤ t.time ∧
      (∀ b, perBank s.cfg m b ≠ 0#32 → s.MayRead b (x b) ∧ t.dataOf b = x b &&& ~~~perBank s.cfg m b) ∧
      (∀ b, perBank s.cfg m b = 0#32 → t.dataOf b = s.dataOf b) ∧
      t.clk = (if affected s.cfg m = [] then s.clk else gateField s.clk (clkGateWord s.cfg)) ∧
      t.trace = s.trace ++ bitsEvents s.cfg m .clear x)

/-- Where the latches are read back and the memo is true (invariant), a memo hit hides nothing: executing the
memo's SET_BITS or CLEAR_BITS again would leave every data latch as it is (R136). -/
def Obligations.MemoHitsAreTransparent : Prop :=
  (∀ (s t : State) (m : Word), s.Inv → s.cfg.wellFormed = true → s.cfg.dataReadMode = .latch →
    s.mapped = true → s.memo = some ⟨m, .set⟩ →
    exec (.setBits m) { s with memo := none } = .next t → t.data = s.data) ∧
  (∀ (s t : State) (m : Word), s.Inv → s.cfg.wellFormed = true → s.cfg.dataReadMode = .latch →
    s.mapped = true → s.memo = some ⟨m, .clear⟩ →
    exec (.clearBits m) { s with memo := none } = .next t → t.data = s.data)

/-- FLUSH of any entries without mixed polarity: nothing happens when no entry is dirty, else the clock gate and
then one read and one write of each dirty bank, ascending, by its polarity, and its entry is cleared
(R138, R139). -/
def Obligations.FlushWritesDirtyBanks : Prop :=
  ∀ s : State, s.cfg.wellFormed = true → s.Sized → s.mapped = true →
    (∀ b, (s.wcOf b).dirty = true → (s.wcOf b).mixed = false) →
    ∃ (t : State) (x : Nat → Word), exec .flush s = .next t ∧
      t = { s with wc := t.wc, data := t.data, clk := t.clk, trace := t.trace, time := t.time, env := t.env } ∧
      (∀ b, (s.wcOf b).dirty = true → s.MayRead b (x b) ∧
        t.dataOf b = written (s.wcOf b).pol (s.wcOf b).pending (x b) ∧
        t.wcOf b = ⟨0#32, .set, false, false⟩) ∧
      (∀ b, (s.wcOf b).dirty = false → t.dataOf b = s.dataOf b ∧ t.wcOf b = s.wcOf b) ∧
      ((∀ b, (s.wcOf b).dirty = false) → t = s) ∧
      ((∃ b, (s.wcOf b).dirty = true) → t.clk = gateField s.clk (clkGateWord s.cfg) ∧
        t.trace = s.trace ++ gateEvent s.cfg ::
          ((banksAscending s.cfg).filter fun b => (s.wcOf b).dirty).flatMap fun b =>
            [.regRead (s.cfg.bankBase b) (x b),
             .regWrite (s.cfg.bankBase b) (written (s.wcOf b).pol (s.wcOf b).pending (x b))])

/-- FLUSH of mixed polarity raises MIXED_POLARITY with the first such bank's number: the clock gate is written
and the dirty banks before it are read, written and their entries cleared, ascending; it and the later banks
are left as they are, and nothing else but the fault changes (R30, R138, R210, R212). -/
def Obligations.FlushOfMixedPolarityFaults : Prop :=
  ∀ (s : State) (b : Nat), s.cfg.wellFormed = true → s.Sized → s.mapped = true → b < s.cfg.numBanks →
    (s.wcOf b).dirty = true → (s.wcOf b).mixed = true →
    (∀ c < b, (s.wcOf c).dirty = true → (s.wcOf c).mixed = false) →
    ∃ (t : State) (x : Nat → Word), exec .flush s = .next t ∧
      t = { s with wc := t.wc, data := t.data, clk := t.clk, fault := 0x07#8, faultInfo := BitVec.ofNat 64 b,
                   trace := t.trace, time := t.time, env := t.env } ∧
      s.time ≤ t.time ∧
      (∀ c < b, (s.wcOf c).dirty = true → s.MayRead c (x c) ∧
        t.dataOf c = written (s.wcOf c).pol (s.wcOf c).pending (x c) ∧
        t.wcOf c = ⟨0#32, .set, false, false⟩) ∧
      (∀ c < b, (s.wcOf c).dirty = false → t.dataOf c = s.dataOf c ∧ t.wcOf c = s.wcOf c) ∧
      (∀ c, b ≤ c → t.dataOf c = s.dataOf c ∧ t.wcOf c = s.wcOf c) ∧
      t.clk = gateField s.clk (clkGateWord s.cfg) ∧
      t.trace = s.trace ++ gateEvent s.cfg ::
        ((List.range b).filter fun c => (s.wcOf c).dirty).flatMap fun c =>
          [.regRead (s.cfg.bankBase c) (x c),
           .regWrite (s.cfg.bankBase c) (written (s.wcOf c).pol (s.wcOf c).pending (x c))]

/-- TIMER_INIT: a started engine only answers 0; else the identification file is read, the forced profile is
chosen whatever it holds, the counter flag is set by privilege, and the two hints are given (R172, R173). The
last two clauses, that the answers are taken from the lists of State.env, are the model's choice (log 6). -/
def Obligations.TimerInitChoosesTheForcedProfile : Prop :=
  (∀ s : State, s.timerInit = true → exec .timerInit s = .next { s with result := some 0#32 }) ∧
  (∀ s : State, s.timerInit = false →
    ∃ (t : State) (c : Option Content) (o1 o2 : Status), exec .timerInit s = .next t ∧
      t = { s with timerInit := true, active := s.cfg.forcedProfile,
                   counterOk := s.cfg.counterAccessible && s.cfg.hostPrivileged, detected := t.detected,
                   result := some 0#32, trace := t.trace, time := t.time, env := t.env } ∧
      s.time ≤ t.time ∧
      t.detected = (match c with
        | none => .default
        | some content =>
          match s.cfg.detect.lookup content with
          | none => .default
          | some p => .profile p) ∧
      t.trace = s.trace ++ [.idFileRead c, .osHint .rtThrottle o1, .osHint .governor o2] ∧
      (∀ c' rest, s.env.idFiles = c' :: rest → c = c') ∧
      (∀ a b rest, s.env.hintOutcomes = a :: b :: rest → o1 = a ∧ o2 = b))

/-- What the environment answers TIMER_INIT reaches only `detected`, the trace, the time and the draws: the
profile in use never depends on the identification file (R172, C9). -/
def Obligations.DetectionNeverChoosesTheProfile : Prop :=
  ∀ (s t u : State) (e : Env), exec .timerInit s = .next t → exec .timerInit { s with env := e } = .next u →
    u = { t with detected := u.detected, trace := u.trace, time := u.time, env := u.env }

/-- SLEEP_NANOS: fault before TIMER_INIT; else the counter path or the no-counter path, long or short, with
exactly its events, and nothing but the trace, the time and the draws changes (R178, R179, R180). -/
def Obligations.SleepFollowsItsPath : Prop :=
  (∀ (s : State) (d : Word), s.timerInit = false →
    exec (.sleepNanos d) s = .next { s with fault := 0x03#8, faultInfo := encode (.sleepNanos d) }) ∧
  (∀ (s : State) (d : Word) (p : Profile), s.timerInit = true → s.cfg.profiles[s.active]? = some p →
    ∃ t, exec (.sleepNanos d) s = .next t ∧
      t = { s with trace := t.trace, time := t.time, env := t.env } ∧ s.time ≤ t.time ∧
      (s.counterOk = true → p.jitterNs + s.cfg.minSleepNs < d.toNat →
        ∃ (T : Nat) (t0 t1 : Word) (elapsed : Nat), s.time + (d.toNat - p.jitterNs) ≤ T ∧ T ≤ t.time ∧
          t0.toNat = (s.phase0 + s.time / 1000) % 2 ^ 32 ∧ t1.toNat = (s.phase0 + T / 1000) % 2 ^ 32 ∧
          elapsed = (t1 - t0).toNat * 1000 ∧
          t.trace = s.trace ++ [.counterRead t0, .osSleep (d.toNat - p.jitterNs), .counterRead t1] ++
            (if d.toNat ≤ elapsed then [] else busyEvents p (d.toNat - elapsed))) ∧
      (s.counterOk = true → d.toNat ≤ p.jitterNs + s.cfg.minSleepNs →
        t.trace = s.trace ++ busyEvents p d.toNat) ∧
      (s.counterOk = false → s.cfg.ncThresholdNs < d.toNat →
        t.trace = s.trace ++ [.osSleep (d.toNat - s.cfg.ncOverheadNs)] ∧
        s.time + (d.toNat - s.cfg.ncOverheadNs) ≤ t.time) ∧
      (s.counterOk = false → d.toNat ≤ s.cfg.ncThresholdNs → t.trace = s.trace ++ busyEvents p d.toNat))

/-- R170, R171: a counter read and then an OS sleep of `r` nanoseconds leave the time at least `r` later and the
counter at `PHASE0` plus the microseconds of that time, modulo 2^32; so, unless 2^32 ticks have gone by, it
stands exactly the ticks gone by past the value read, which are at least `r / 1000`: vector T-18 is not a
run. -/
def Obligations.CounterCannotRunBehindASleep : Prop :=
  ∀ (s t : State) (r : Nat), t = osSleep r (counterRead s) →
    s.time + r ≤ t.time ∧ t.phase0 = s.phase0 ∧
    t.trace = s.trace ++ [.counterRead (BitVec.ofNat 32 (s.phase0 + s.time / 1000)), .osSleep r] ∧
    counterValue t = BitVec.ofNat 32 (s.phase0 + t.time / 1000) ∧
    s.time / 1000 + r / 1000 ≤ t.time / 1000 ∧
    (t.time / 1000 < s.time / 1000 + 2 ^ 32 →
      (counterValue t - BitVec.ofNat 32 (s.phase0 + s.time / 1000)).toNat = t.time / 1000 - s.time / 1000)

/-- JITTER_ALLOWANCE: RESULT is the active profile's allowance in nanoseconds; nothing else changes; before
TIMER_INIT a fault (R177, R181). -/
def Obligations.JitterAllowanceAnswersTheActiveProfile : Prop :=
  (∀ s : State, s.timerInit = false →
    exec .jitterAllowance s = .next { s with fault := 0x03#8, faultInfo := 0x12#64 }) ∧
  (∀ (s : State) (p : Profile), s.cfg.wellFormed = true → s.timerInit = true →
    s.cfg.profiles[s.active]? = some p →
    ∃ v : Word, v.toNat = p.jitterNs ∧ exec .jitterAllowance s = .next { s with result := some v })

/-- PULSER_ACQUIRE: before INIT a fault; else the pulser is replaced by one with `count` unset widths, and nothing
else changes (R200). -/
def Obligations.PulserAcquireReplacesThePulser : Prop :=
  ∀ (s : State) (k : BitVec 8) (m : Word),
    (s.mapped = false →
      exec (.pulserAcquire k m) s = .next { s with fault := 0x02#8, faultInfo := encode (.pulserAcquire k m) }) ∧
    (s.mapped = true →
      exec (.pulserAcquire k m) s = .next { s with pulser := some ⟨m, k, List.replicate k.toNat none⟩ })

/-- PULSER_SET_WIDTH: the first of its checks that fails is its fault; else the entry is set, and every other
entry, the mask, the count and the rest of the state stay (R201). -/
def Obligations.PulserSetWidthSetsOneEntry : Prop :=
  (∀ (s : State) (k : BitVec 8) (n : Word) (code : BitVec 8) (info : BitVec 64),
    firstFault (.pulserSetWidth k n) s = some (code, info) →
    exec (.pulserSetWidth k n) s = .next { s with fault := code, faultInfo := info }) ∧
  (∀ (s : State) (k : BitVec 8) (n : Word) (p : Pulser), s.mapped = true → s.pulser = some p →
    k.toNat < p.count.toNat → p.widths.length = p.count.toNat →
    ∃ ws, exec (.pulserSetWidth k n) s = .next { s with pulser := some ⟨p.mask, p.count, ws⟩ } ∧
      ws.length = p.widths.length ∧ ws[k.toNat]? = some (some n) ∧
      ∀ j, j ≠ k.toNat → ws[j]? = p.widths[j]?)

/-- SEND_PULSE: the first of its checks that fails is its fault; else it is CLEAR_BITS of the line mask,
SLEEP_NANOS of the calibrated width and SET_BITS of the line mask, one after another; it changes only data
latches, the gate field, the memo, the trace, the time and the draws, and leaves the set in the memo
(R202). -/
def Obligations.SendPulseIsClearSleepSet : Prop :=
  (∀ (s : State) (k : BitVec 8) (code : BitVec 8) (info : BitVec 64),
    firstFault (.sendPulse k) s = some (code, info) →
    exec (.sendPulse k) s = .next { s with fault := code, faultInfo := info }) ∧
  (∀ (s : State) (k : BitVec 8) (p : Pulser) (w : Word), s.cfg.wellFormed = true → s.Sized → s.Quiet →
    s.mapped = true → s.timerInit = true → s.pulser = some p → k.toNat < p.count.toNat →
    p.widths[k.toNat]? = some (some w) →
    ∃ a b t : State, exec (.clearBits p.mask) s = .next a ∧
      exec (.sleepNanos (BitVec.ofNat 32 ((s.cfg.pulseCalibration.lookup w.toNat).getD w.toNat))) a = .next b ∧
      exec (.setBits p.mask) b = .next t ∧
      exec (.sendPulse k) s = .next t ∧
      t = { s with data := t.data, clk := t.clk, memo := some ⟨p.mask, .set⟩, trace := t.trace,
                   time := t.time, env := t.env })

/-! Faults. -/

/-- R215: the first check that fails is the fault a command reports, with nothing else written, before any
event; and where no check fails the command ends without fault, under the invariant. -/
def Obligations.FirstFailingCheckIsReported : Prop :=
  (∀ s : State, s.cfg.wellFormed = true → s.cfg.inAddressSpace = true → s.fault ≠ 0#8 →
    step s = .fault (.stuck s.fault)) ∧
  (∀ (s : State) (w : CmdWord) (why : Illegal), s.cfg.wellFormed = true → s.cfg.inAddressSpace = true →
    s.fault = 0#8 → s.program[s.position]? = some w → decode w = .illegal why →
    step s = .next { s with fault := 0x01#8, faultInfo := w }) ∧
  (∀ (i : Instr) (s : State) (code : BitVec 8) (info : BitVec 64), firstFault i s = some (code, info) →
    exec i s = .next { s with fault := code, faultInfo := info }) ∧
  (∀ (i : Instr) (s : State), s.cfg.wellFormed = true → s.Inv → firstFault i s = none →
    ∃ t, exec i s = .next t ∧ t.fault = s.fault ∧ t.faultInfo = s.faultInfo)

/-- A command that needs the bank table raises NOT_INITIALIZED with its word before INIT has succeeded, and
changes nothing else (R210, R103). -/
def Obligations.CommandsNeedTheBankTable : Prop :=
  ∀ (s : State) (m : Word) (k : BitVec 8), s.mapped = false →
    ∀ i ∈ [Instr.initOutputs m, .requestInputs m, .readAll, .setBits m, .clearBits m, .flush,
      .pulserAcquire k m, .pulserSetWidth k m, .sendPulse k],
      exec i s = .next { s with fault := 0x02#8, faultInfo := encode i }

/-! Properties of 42_controller.md section 5. -/

/-- R140: one SET_BITS or CLEAR_BITS writes each bank's data register at most once besides the clock gate, and,
unless it is the memo's pair again, exactly once where the bank is affected. -/
def Obligations.OneWritePerAffectedBank : Prop :=
  ∀ (s t : State) (m : Word) (i : Instr) (pol : Polarity),
    (i = .setBits m ∧ pol = .set ∨ i = .clearBits m ∧ pol = .clear) →
    s.cfg.wellFormed = true → s.Sized → s.Quiet → s.mapped = true → exec i s = .next t →
    ∃ es, (t.trace = s.trace ++ es ∨ t.trace = s.trace ++ gateEvent s.cfg :: es) ∧
      ∀ b < s.cfg.numBanks, es.countP (isWriteTo (s.cfg.bankBase b)) ≤ 1 ∧
        (s.memo ≠ some ⟨m, pol⟩ →
          es.countP (isWriteTo (s.cfg.bankBase b)) = if perBank s.cfg m b = 0#32 then 0 else 1)

/-- R141: after SET_BITS of a mask of defined lines, READ_ALL reports every bit of it set, and after
CLEAR_BITS every bit clear, when the latches are read back or every line of the mask is claimed as an
output; memo hits included. -/
def Obligations.ReadbackAfterSetAndClear : Prop :=
  ∀ (s : State) (m : Word), s.cfg.wellFormed = true → s.Inv → s.mapped = true →
    m &&& ~~~defined s.cfg = 0#32 → (s.cfg.dataReadMode = .latch ∨ m &&& ~~~s.outputs = 0#32) →
    (∃ t u v, exec (.setBits m) s = .next t ∧ exec .readAll t = .next u ∧ u.result = some v ∧ v &&& m = m) ∧
    (∃ t u v, exec (.clearBits m) s = .next t ∧ exec .readAll t = .next u ∧ u.result = some v ∧
      v &&& m = 0#32)

/-- R142: two disjoint masks claimed one after the other on a block with no claims are granted exactly, and
no direction bit of a bank outside those of the two masks is written. -/
def Obligations.DisjointClaimsAreIsolated : Prop :=
  ∀ (s : State) (m1 m2 : Word), s.cfg.wellFormed = true → s.Sized → s.mapped = true →
    s.outputs = 0#32 → s.inputs = 0#32 → s.reserved = 0#32 → m1 &&& m2 = 0#32 →
    ∃ t u, exec (.initOutputs m1) s = .next t ∧ t.result = some m1 ∧
      exec (.initOutputs m2) t = .next u ∧ u.result = some m2 ∧
      ∀ b, perBank s.cfg m1 b = 0#32 → perBank s.cfg m2 b = 0#32 → u.dirOf b = s.dirOf b

/-- R143: INIT_OUTPUTS of a mask some of whose bits an earlier REQUEST_INPUTS was granted answers the mask
without those bits, raises no fault, and leaves their direction programming as it was. -/
def Obligations.PartialGrantsAreSilent : Prop :=
  ∀ (s t : State) (m1 m2 g : Word), s.cfg.wellFormed = true → s.Sized → s.mapped = true →
    exec (.requestInputs m1) s = .next t → t.result = some g → g &&& m2 ≠ 0#32 →
    ∃ u, exec (.initOutputs m2) t = .next u ∧ u.fault = t.fault ∧
      u.result = some (m2 &&& ~~~(s.outputs ||| s.inputs ||| g ||| s.reserved)) ∧
      ∀ l ∈ s.cfg.lineMap, g.getLsbD l.vbit = true →
        (u.dirOf l.bank).getLsbD l.pbit = (t.dirOf l.bank).getLsbD l.pbit

/-- R243: after its claim a line's direction is known: set for an output, clear for an input, and it stays
so through every later command. -/
def Obligations.ClaimedDirectionsAreKnown : Prop :=
  ∀ (i : Instr) (s t : State), s.cfg.wellFormed = true → s.Sized → s.ClaimsDisjoint → s.DirectionsKnown →
    exec i s = .next t → t.DirectionsKnown
end

