-- ==== Sys2Proof/Laws/Config.lean ====
section
/-! SUPPORT. What a well-formed configuration gives: the clauses of R10 as propositions, and the window
facts derived in R52, R55 and R64. -/

namespace Sys2Proof

open Machine

/-- The clauses of R10 that proofs use, as propositions. -/
theorem Cfg.wellFormed_clauses {cfg : Cfg} (h : cfg.wellFormed = true) :
    cfg.banksOk = true ∧ cfg.clkOk = true ∧ cfg.linesOk = true ∧ cfg.reservedOk = true ∧
    cfg.profilesOk = true ∧ cfg.thresholdsOk = true ∧ cfg.pageOk = true ∧ cfg.calibrationOk = true := by
  simp only [Cfg.wellFormed, Bool.and_eq_true] at h
  tauto

/-- R10 clause 7: the page size is a power of two, at least 8. -/
theorem Cfg.pageSize_pow {cfg : Cfg} (h : cfg.wellFormed = true) :
    ∃ k, cfg.pageSize = 2 ^ k ∧ 3 ≤ k := by
  have hp := (Cfg.wellFormed_clauses h).2.2.2.2.2.2.1
  simp only [Cfg.pageOk, Bool.and_eq_true, decide_eq_true_eq, beq_iff_eq] at hp
  refine ⟨cfg.pageSize.log2, hp.2.symm, ?_⟩
  by_contra hk
  have : cfg.pageSize.log2 ≤ 2 := by omega
  have : 2 ^ cfg.pageSize.log2 ≤ 2 ^ 2 := Nat.pow_le_pow_right (by decide) this
  omega

/-- R10 clause 1, for one bank. -/
theorem Cfg.bankBase_ok {cfg : Cfg} (h : cfg.wellFormed = true) {b : Nat} (hb : b < cfg.numBanks) :
    cfg.bankBase b % 4 = 0 ∧ cfg.bankBase b % cfg.pageSize + 8 ≤ cfg.pageSize := by
  have hk := (Cfg.wellFormed_clauses h).1
  simp only [Cfg.banksOk, Bool.and_eq_true, List.all_eq_true, beq_iff_eq, decide_eq_true_eq] at hk
  have hb' : b < cfg.banks.length := hb
  simpa [Cfg.bankBase, hb'] using hk.1.2 cfg.banks[b] (List.getElem_mem hb')

/-- Banks with the same base are the same bank (R10 clause 1). -/
theorem Cfg.bankBase_inj {cfg : Cfg} (h : cfg.wellFormed = true) {a b : Nat} (ha : a < cfg.numBanks)
    (hb : b < cfg.numBanks) (he : cfg.bankBase a = cfg.bankBase b) : a = b := by
  have hk := (Cfg.wellFormed_clauses h).1
  simp only [Cfg.banksOk, Bool.and_eq_true, decide_eq_true_eq] at hk
  have ha' : a < cfg.banks.length := ha
  have hb' : b < cfg.banks.length := hb
  simp [Cfg.bankBase, ha', hb'] at he
  have := (List.nodup_iff_injective_getElem.1 hk.2) (a₁ := ⟨a, by simpa using ha'⟩)
    (a₂ := ⟨b, by simpa using hb'⟩) (by simpa using he)
  simpa using this

/-- R10 clause 3: the range of a line. -/
theorem Cfg.line_range {cfg : Cfg} (h : cfg.wellFormed = true) {l : Line} (hl : l ∈ cfg.lineMap) :
    l.vbit < 32 ∧ l.bank < cfg.numBanks ∧ l.pbit < 32 := by
  have hk := (Cfg.wellFormed_clauses h).2.2.1
  simp only [Cfg.linesOk, Bool.and_eq_true, List.all_eq_true, decide_eq_true_eq] at hk
  have := hk.1.1.1.2 l hl
  exact ⟨this.1.1, this.1.2, this.2⟩

/-- R10 clause 3: virtual bits are pairwise distinct. -/
theorem Cfg.vbits_nodup {cfg : Cfg} (h : cfg.wellFormed = true) : (cfg.lineMap.map Line.vbit).Nodup := by
  have hk := (Cfg.wellFormed_clauses h).2.2.1
  simp only [Cfg.linesOk, Bool.and_eq_true, decide_eq_true_eq] at hk
  exact hk.1.1.2

/-- R10 clause 3: (bank, physical bit) pairs are pairwise distinct. -/
theorem Cfg.pairs_nodup {cfg : Cfg} (h : cfg.wellFormed = true) :
    (cfg.lineMap.map fun l => (l.bank, l.pbit)).Nodup := by
  have hk := (Cfg.wellFormed_clauses h).2.2.1
  simp only [Cfg.linesOk, Bool.and_eq_true, decide_eq_true_eq] at hk
  exact hk.1.2

/-- R10 clause 3: `clock` is (17, 8, 6). -/
theorem Cfg.clock_mem {cfg : Cfg} (h : cfg.wellFormed = true) : (⟨.clock, 17, 8, 6⟩ : Line) ∈ cfg.lineMap := by
  have hk := (Cfg.wellFormed_clauses h).2.2.1
  simp only [Cfg.linesOk, Bool.and_eq_true, List.contains_iff_mem] at hk
  exact hk.2

/-- R10 clause 5: the forced profile exists, with a jitter below 2^32. -/
theorem Cfg.forced_profile {cfg : Cfg} (h : cfg.wellFormed = true) :
    ∃ p, cfg.profiles[cfg.forcedProfile]? = some p ∧ 0 < p.den ∧ p.num < 2 ^ 31 ∧ p.jitterNs < 2 ^ 32 := by
  have hk := (Cfg.wellFormed_clauses h).2.2.2.2.1
  simp only [Cfg.profilesOk, Bool.and_eq_true, decide_eq_true_eq, List.all_eq_true] at hk
  refine ⟨cfg.profiles[cfg.forcedProfile]'hk.1.1.2, by simp [hk.1.1.2], ?_⟩
  have := hk.2 _ (List.getElem_mem hk.1.1.2)
  tauto

/-- R10 clause 4. -/
theorem Cfg.reserved_lt {cfg : Cfg} (h : cfg.wellFormed = true) : cfg.reservedInit < 2 ^ 32 := by
  have hk := (Cfg.wellFormed_clauses h).2.2.2.1
  simp only [Cfg.reservedOk, decide_eq_true_eq] at hk
  exact hk

/-- The base of a window is the mapped address (R52: page + intra-page offset). -/
@[simp] theorem Machine.windowAt_paddr (cfg : Cfg) (t : Target) (a : Nat) (m : Mode) (idx : Nat) :
    (windowAt cfg t a m).paddr idx = a + 4 * idx := by
  simp only [windowAt, Window.paddr]
  have : a &&& (cfg.pageSize - 1) ≤ a := Nat.and_le_left
  omega

@[simp] theorem Machine.windowAt_mode (cfg : Cfg) (t : Target) (a : Nat) (m : Mode) :
    (windowAt cfg t a m).mode = m := rfl

@[simp] theorem Machine.windowAt_target (cfg : Cfg) (t : Target) (a : Nat) (m : Mode) :
    (windowAt cfg t a m).target = t := rfl

/-- The window arithmetic of R52 under a power-of-two page size. -/
theorem Machine.windowAt_off {cfg : Cfg} (h : cfg.wellFormed = true) (t : Target) (a : Nat) (m : Mode) :
    (windowAt cfg t a m).off = a % cfg.pageSize := by
  obtain ⟨k, hk, -⟩ := Cfg.pageSize_pow h
  have hm : a &&& (cfg.pageSize - 1) = a % cfg.pageSize := by rw [hk, Nat.and_two_pow_sub_one_eq_mod]
  have := Nat.mod_le a cfg.pageSize
  simp only [windowAt, hm]
  omega

/-- A window of an address with a word left in its page is one page long (R52). -/
theorem Machine.windowAt_length {cfg : Cfg} (h : cfg.wellFormed = true) (t : Target) (a : Nat) (m : Mode)
    (ha : a % cfg.pageSize + 4 ≤ cfg.pageSize) : (windowAt cfg t a m).length = cfg.pageSize := by
  have hoff := windowAt_off h t a m
  have hlen : (windowAt cfg t a m).length =
      (((windowAt cfg t a m).off + 4 + (cfg.pageSize - 1)) / cfg.pageSize) * cfg.pageSize := rfl
  rw [hlen, hoff]
  have : (a % cfg.pageSize + 4 + (cfg.pageSize - 1)) / cfg.pageSize = 1 := by
    apply Nat.div_eq_of_lt_le <;> omega
  rw [this, Nat.one_mul]

/-- Both registers of a bank lie inside its windows (R55). -/
theorem Machine.bankWindow_covers {cfg : Cfg} (h : cfg.wellFormed = true) {b : Nat} (hb : b < cfg.numBanks)
    (t : Target) (m : Mode) {idx : Nat} (hi : idx ≤ 1) :
    (windowAt cfg t (cfg.bankBase b) m).covers idx = true := by
  have hk := (Cfg.bankBase_ok h hb).2
  have hlen := windowAt_length h t (cfg.bankBase b) m (by omega)
  simp only [Window.covers, decide_eq_true_eq, windowAt_off h, hlen]
  omega

/-- The clock-control register leaves a whole word in its page (R52, R10 clause 2). -/
theorem Machine.clkAddr_in_page {cfg : Cfg} (h : cfg.wellFormed = true) :
    cfg.clkAddr % cfg.pageSize + 4 ≤ cfg.pageSize := by
  obtain ⟨k, hk, hk3⟩ := Cfg.pageSize_pow h
  have hc := (Cfg.wellFormed_clauses h).2.1
  simp only [Cfg.clkOk, beq_iff_eq] at hc
  obtain ⟨q, hq⟩ : 4 ∣ cfg.pageSize := by
    rw [hk]; exact ⟨2 ^ (k - 2), by rw [show k = 2 + (k - 2) by omega, Nat.pow_add]; simp⟩
  have hlt : cfg.clkAddr % cfg.pageSize < cfg.pageSize := Nat.mod_lt _ (by rw [hk]; positivity)
  have hmod : cfg.clkAddr % cfg.pageSize % 4 = 0 := by
    rw [Nat.mod_mod_of_dvd _ ⟨q, hq⟩]; exact hc
  omega

/-- The clock-control register lies inside its window (R55). -/
theorem Machine.clockWindow_covers {cfg : Cfg} (h : cfg.wellFormed = true) (m : Mode) :
    (windowAt cfg .clock cfg.clkAddr m).covers 0 = true := by
  have := clkAddr_in_page h
  simp only [Window.covers, decide_eq_true_eq, windowAt_off h, windowAt_length h _ _ m this]
  omega

end Sys2Proof
end

