-- ==== Sys2Proof/Laws/Bits.lean ====
section
/-! SUPPORT. The bits of masks: `bit`, `orAll`, `resolve`, `perBank`, `toVirtual`, `defined`. -/

namespace Sys2Proof.Machine

@[simp] theorem getLsbD_bit (i k : Nat) : (bit i).getLsbD k = (decide (k < 32) && decide (k = i)) := by
  simp only [bit, BitVec.getLsbD_shiftLeft, BitVec.getLsbD_one]
  rw [Bool.eq_iff_iff]
  simp only [Bool.and_eq_true, Bool.not_eq_true', decide_eq_true_eq, decide_eq_false_iff_not]
  omega

theorem bit_ne_zero {i : Nat} (h : i < 32) : bit i ≠ 0#32 := by
  intro h0
  have h1 : (bit i).getLsbD i = true := by rw [getLsbD_bit]; simp [h]
  rw [h0] at h1
  simp at h1

@[simp] theorem orAll_nil : orAll [] = 0#32 := rfl

@[simp] theorem orAll_cons (w : Word) (ws : List Word) : orAll (w :: ws) = w ||| orAll ws := rfl

/-- A bit of an OR of masks is a bit of one of them. -/
theorem getLsbD_orAll (ws : List Word) (k : Nat) : (orAll ws).getLsbD k = ws.any fun w => w.getLsbD k := by
  induction ws with
  | nil => simp
  | cons w ws ih => simp [ih]

/-- The pairs of `resolve` (R123). -/
theorem mem_resolve {cfg : Cfg} {m : Word} {p : Nat × Nat} :
    p ∈ resolve cfg m ↔ ∃ l ∈ cfg.lineMap, m.getLsbD l.vbit = true ∧ p = (l.bank, l.pbit) := by
  simp only [resolve, List.mem_map, List.mem_filter]
  constructor
  · rintro ⟨l, ⟨h1, h2⟩, rfl⟩; exact ⟨l, h1, h2, rfl⟩
  · rintro ⟨l, h1, h2, rfl⟩; exact ⟨l, ⟨h1, h2⟩, rfl⟩

/-- A bit of `perBank` (R124). -/
theorem getLsbD_perBank {cfg : Cfg} {m : Word} {b k : Nat} (hk : k < 32) :
    (perBank cfg m b).getLsbD k = true ↔ (b, k) ∈ resolve cfg m := by
  simp only [perBank, getLsbD_orAll, List.any_map, List.any_eq_true, List.mem_filter, Function.comp,
    getLsbD_bit, Bool.and_eq_true, decide_eq_true_eq, beq_iff_eq]
  constructor
  · rintro ⟨⟨b', k'⟩, ⟨h1, h2⟩, -, h3⟩
    simp only at h2 h3
    subst h2 h3
    exact h1
  · intro h
    exact ⟨(b, k), ⟨h, rfl⟩, hk, rfl⟩

/-- A bank without a resolved pair has no bits (R124). -/
theorem perBank_eq_zero {cfg : Cfg} {m : Word} {b : Nat} (h : ∀ p ∈ resolve cfg m, p.1 ≠ b) :
    perBank cfg m b = 0#32 := by
  apply BitVec.eq_of_getLsbD_eq
  intro k hk
  have : ¬ (perBank cfg m b).getLsbD k = true := by
    rw [getLsbD_perBank hk]
    intro hm
    exact h _ hm rfl
  simpa using this

/-- A bank beyond the table is affected by no mask. -/
theorem perBank_of_ge {cfg : Cfg} (h : cfg.wellFormed = true) (m : Word) {b : Nat} (hb : cfg.numBanks ≤ b) :
    perBank cfg m b = 0#32 := by
  apply perBank_eq_zero
  intro p hp
  obtain ⟨l, hl, -, rfl⟩ := mem_resolve.1 hp
  have := (Cfg.line_range h hl).2.1
  simp only
  omega

/-- A bank of a resolved pair is affected (R124). -/
theorem perBank_ne_zero {cfg : Cfg} (h : cfg.wellFormed = true) {m : Word} {b k : Nat}
    (hp : (b, k) ∈ resolve cfg m) : perBank cfg m b ≠ 0#32 := by
  obtain ⟨l, hl, -, he⟩ := mem_resolve.1 hp
  have hk : k < 32 := by
    have := (Cfg.line_range h hl).2.2
    simp only [Prod.mk.injEq] at he
    omega
  intro h0
  have := (getLsbD_perBank (cfg := cfg) (m := m) (b := b) hk).2 hp
  simp [h0] at this

/-- No pair resolves exactly when no bank is affected (R124). -/
theorem resolve_eq_nil_iff {cfg : Cfg} (h : cfg.wellFormed = true) (m : Word) :
    resolve cfg m = [] ↔ ∀ b < cfg.numBanks, perBank cfg m b = 0#32 := by
  constructor
  · intro hr b _
    apply perBank_eq_zero
    simp [hr]
  · intro hb
    rw [List.eq_nil_iff_forall_not_mem]
    rintro ⟨b, k⟩ hp
    obtain ⟨l, hl, -, he⟩ := mem_resolve.1 hp
    simp only [Prod.mk.injEq] at he
    exact perBank_ne_zero h hp (hb b (he.1 ▸ (Cfg.line_range h hl).2.1))

/-- A bit of `toVirtual` (R125). -/
theorem getLsbD_toVirtual {cfg : Cfg} {b : Nat} {w : Word} {k : Nat} (hk : k < 32) :
    (toVirtual cfg b w).getLsbD k = true ↔
      ∃ l ∈ cfg.lineMap, l.bank = b ∧ w.getLsbD l.pbit = true ∧ l.vbit = k := by
  simp only [toVirtual, getLsbD_orAll, List.any_map, List.any_eq_true, List.mem_filter, Function.comp,
    getLsbD_bit, Bool.and_eq_true, decide_eq_true_eq, beq_iff_eq]
  constructor
  · rintro ⟨l, ⟨h1, h2, h3⟩, -, h4⟩; exact ⟨l, h1, h2, h3, h4.symm⟩
  · rintro ⟨l, h1, h2, h3, h4⟩; exact ⟨l, ⟨h1, h2, h3⟩, hk, h4.symm⟩

/-- A bit of `DEFINED` (R122). -/
theorem getLsbD_defined {cfg : Cfg} {k : Nat} (hk : k < 32) :
    (defined cfg).getLsbD k = true ↔ ∃ l ∈ cfg.lineMap, l.vbit = k := by
  simp only [defined, getLsbD_orAll, List.any_map, List.any_eq_true, Function.comp, getLsbD_bit,
    Bool.and_eq_true, decide_eq_true_eq]
  constructor
  · rintro ⟨l, h1, -, h2⟩; exact ⟨l, h1, h2.symm⟩
  · rintro ⟨l, h1, h2⟩; exact ⟨l, h1, hk, h2.symm⟩

/-- Lines with the same virtual bit are the same line (R10 clause 3). -/
theorem line_eq_of_vbit {cfg : Cfg} (h : cfg.wellFormed = true) {l l' : Line} (hl : l ∈ cfg.lineMap)
    (hl' : l' ∈ cfg.lineMap) (hv : l.vbit = l'.vbit) : l = l' :=
  List.inj_on_of_nodup_map (Cfg.vbits_nodup h) hl hl' hv

/-- Lines with the same physical pair are the same line (R10 clause 3). -/
theorem line_eq_of_pair {cfg : Cfg} (h : cfg.wellFormed = true) {l l' : Line} (hl : l ∈ cfg.lineMap)
    (hl' : l' ∈ cfg.lineMap) (hb : l.bank = l'.bank) (hp : l.pbit = l'.pbit) : l = l' :=
  List.inj_on_of_nodup_map (Cfg.pairs_nodup h) hl hl' (by simp [hb, hp])

/-- A mask resolves to each of its pairs once (R123, R10 clause 3). -/
theorem resolve_nodup {cfg : Cfg} (h : cfg.wellFormed = true) (m : Word) : (resolve cfg m).Nodup :=
  (Cfg.pairs_nodup h).sublist (List.filter_sublist.map _)

/-- The bit of a line in its bank's part of a mask is its virtual bit (R123, R124). -/
theorem perBank_line {cfg : Cfg} (h : cfg.wellFormed = true) {l : Line} (hl : l ∈ cfg.lineMap) (m : Word) :
    (perBank cfg m l.bank).getLsbD l.pbit = m.getLsbD l.vbit := by
  have hr := Cfg.line_range h hl
  rw [Bool.eq_iff_iff, getLsbD_perBank hr.2.2, mem_resolve]
  constructor
  · rintro ⟨l', hl', hm, he⟩
    simp only [Prod.mk.injEq] at he
    rwa [line_eq_of_pair h hl hl' he.1 he.2]
  · intro hm
    exact ⟨l, hl, hm, rfl⟩

end Sys2Proof.Machine
end

