-- ==== Sys2Proof/Laws/Checks.lean ====
section
/-! SUPPORT. The checks of R215, one by one: a check that holds lets the command go on, and one that does
not raises its fault and writes nothing else (R212). -/

namespace Sys2Proof.Machine

theorem raise_eq (c : FaultCode) (info : BitVec 64) (s : State) :
    raise c info s = { s with fault := c.toByte, faultInfo := info } := rfl

theorem needMapped_true {i : Instr} {s : State} {k : Out} (h : s.mapped = true) : needMapped i s k = k := by
  simp [needMapped, h]

theorem needMapped_false {i : Instr} {s : State} {k : Out} (h : s.mapped = false) :
    needMapped i s k = .next { s with fault := 0x02#8, faultInfo := encode i } := by
  simp [needMapped, h, raise, FaultCode.toByte, commandWord]

theorem needTimer_true {i : Instr} {s : State} {k : Out} (h : s.timerInit = true) : needTimer i s k = k := by
  simp [needTimer, h]

theorem needTimer_false {i : Instr} {s : State} {k : Out} (h : s.timerInit = false) :
    needTimer i s k = .next { s with fault := 0x03#8, faultInfo := encode i } := by
  simp [needTimer, h, raise, FaultCode.toByte, commandWord]

theorem needPulser_some {i : Instr} {s : State} {k : Pulser → Out} {p : Pulser} (h : s.pulser = some p) :
    needPulser i s k = k p := by
  simp [needPulser, h]

theorem needPulser_none {i : Instr} {s : State} {k : Pulser → Out} (h : s.pulser = none) :
    needPulser i s k = .next { s with fault := 0x04#8, faultInfo := encode i } := by
  simp [needPulser, h, raise, FaultCode.toByte, commandWord]

theorem needIndex_lt {idx : BitVec 8} {p : Pulser} {s : State} {k : Out} (h : idx.toNat < p.count.toNat) :
    needIndex idx p s k = k := by
  simp only [needIndex, BitVec.le_def, if_neg (Nat.not_le.2 h)]

theorem needIndex_ge {idx : BitVec 8} {p : Pulser} {s : State} {k : Out} (h : p.count.toNat ≤ idx.toNat) :
    needIndex idx p s k = .next { s with fault := 0x05#8, faultInfo := idx.setWidth 64 } := by
  simp only [needIndex, BitVec.le_def, if_pos h]
  rfl

theorem needWidth_some {idx : BitVec 8} {p : Pulser} {s : State} {k : Word → Out} {w : Word}
    (h : p.widths.getD idx.toNat none = some w) : needWidth idx p s k = k w := by
  simp only [needWidth, Pulser.width, h]

theorem needWidth_none {idx : BitVec 8} {p : Pulser} {s : State} {k : Word → Out}
    (h : p.widths.getD idx.toNat none = none) :
    needWidth idx p s k = .next { s with fault := 0x06#8, faultInfo := idx.setWidth 64 } := by
  simp only [needWidth, Pulser.width, h]
  rfl

@[simp] theorem runBody_eq (body : Run → Res Unit) (s : State) : runBody body s = .next (body ⟨s, false⟩).final :=
  rfl

end Sys2Proof.Machine
end

