-- ==== Sys2Proof/Laws/State.lean ====
section
/-! SUPPORT. The fields of a state after each named update, one lemma for each field and update. -/

namespace Sys2Proof.Machine

/-! `emit` -/

@[simp] theorem emit_cfg (e : Event) (s : State) : (emit e s).cfg = s.cfg := rfl
@[simp] theorem emit_program (e : Event) (s : State) : (emit e s).program = s.program := rfl
@[simp] theorem emit_position (e : Event) (s : State) : (emit e s).position = s.position := rfl
@[simp] theorem emit_result (e : Event) (s : State) : (emit e s).result = s.result := rfl
@[simp] theorem emit_fault (e : Event) (s : State) : (emit e s).fault = s.fault := rfl
@[simp] theorem emit_faultInfo (e : Event) (s : State) : (emit e s).faultInfo = s.faultInfo := rfl
@[simp] theorem emit_mapped (e : Event) (s : State) : (emit e s).mapped = s.mapped := rfl
@[simp] theorem emit_outputs (e : Event) (s : State) : (emit e s).outputs = s.outputs := rfl
@[simp] theorem emit_inputs (e : Event) (s : State) : (emit e s).inputs = s.inputs := rfl
@[simp] theorem emit_reserved (e : Event) (s : State) : (emit e s).reserved = s.reserved := rfl
@[simp] theorem emit_wc (e : Event) (s : State) : (emit e s).wc = s.wc := rfl
@[simp] theorem emit_memo (e : Event) (s : State) : (emit e s).memo = s.memo := rfl
@[simp] theorem emit_timerInit (e : Event) (s : State) : (emit e s).timerInit = s.timerInit := rfl
@[simp] theorem emit_detected (e : Event) (s : State) : (emit e s).detected = s.detected := rfl
@[simp] theorem emit_active (e : Event) (s : State) : (emit e s).active = s.active := rfl
@[simp] theorem emit_counterOk (e : Event) (s : State) : (emit e s).counterOk = s.counterOk := rfl
@[simp] theorem emit_pulser (e : Event) (s : State) : (emit e s).pulser = s.pulser := rfl
@[simp] theorem emit_data (e : Event) (s : State) : (emit e s).data = s.data := rfl
@[simp] theorem emit_dir (e : Event) (s : State) : (emit e s).dir = s.dir := rfl
@[simp] theorem emit_clk (e : Event) (s : State) : (emit e s).clk = s.clk := rfl
@[simp] theorem emit_time (e : Event) (s : State) : (emit e s).time = s.time + e.minDuration + s.env.elapse := rfl
@[simp] theorem emit_phase0 (e : Event) (s : State) : (emit e s).phase0 = s.phase0 := rfl
@[simp] theorem emit_trace (e : Event) (s : State) : (emit e s).trace = s.trace ++ [e] := rfl
@[simp] theorem emit_env (e : Event) (s : State) : (emit e s).env = s.env.tookElapse := rfl

/-! `raise` -/

@[simp] theorem raise_cfg (code : FaultCode) (info : BitVec 64) (s : State) : (raise code info s).cfg = s.cfg := rfl
@[simp] theorem raise_program (code : FaultCode) (info : BitVec 64) (s : State) : (raise code info s).program = s.program := rfl
@[simp] theorem raise_position (code : FaultCode) (info : BitVec 64) (s : State) : (raise code info s).position = s.position := rfl
@[simp] theorem raise_result (code : FaultCode) (info : BitVec 64) (s : State) : (raise code info s).result = s.result := rfl
@[simp] theorem raise_fault (code : FaultCode) (info : BitVec 64) (s : State) : (raise code info s).fault = code.toByte := rfl
@[simp] theorem raise_faultInfo (code : FaultCode) (info : BitVec 64) (s : State) : (raise code info s).faultInfo = info := rfl
@[simp] theorem raise_mapped (code : FaultCode) (info : BitVec 64) (s : State) : (raise code info s).mapped = s.mapped := rfl
@[simp] theorem raise_outputs (code : FaultCode) (info : BitVec 64) (s : State) : (raise code info s).outputs = s.outputs := rfl
@[simp] theorem raise_inputs (code : FaultCode) (info : BitVec 64) (s : State) : (raise code info s).inputs = s.inputs := rfl
@[simp] theorem raise_reserved (code : FaultCode) (info : BitVec 64) (s : State) : (raise code info s).reserved = s.reserved := rfl
@[simp] theorem raise_wc (code : FaultCode) (info : BitVec 64) (s : State) : (raise code info s).wc = s.wc := rfl
@[simp] theorem raise_memo (code : FaultCode) (info : BitVec 64) (s : State) : (raise code info s).memo = s.memo := rfl
@[simp] theorem raise_timerInit (code : FaultCode) (info : BitVec 64) (s : State) : (raise code info s).timerInit = s.timerInit := rfl
@[simp] theorem raise_detected (code : FaultCode) (info : BitVec 64) (s : State) : (raise code info s).detected = s.detected := rfl
@[simp] theorem raise_active (code : FaultCode) (info : BitVec 64) (s : State) : (raise code info s).active = s.active := rfl
@[simp] theorem raise_counterOk (code : FaultCode) (info : BitVec 64) (s : State) : (raise code info s).counterOk = s.counterOk := rfl
@[simp] theorem raise_pulser (code : FaultCode) (info : BitVec 64) (s : State) : (raise code info s).pulser = s.pulser := rfl
@[simp] theorem raise_data (code : FaultCode) (info : BitVec 64) (s : State) : (raise code info s).data = s.data := rfl
@[simp] theorem raise_dir (code : FaultCode) (info : BitVec 64) (s : State) : (raise code info s).dir = s.dir := rfl
@[simp] theorem raise_clk (code : FaultCode) (info : BitVec 64) (s : State) : (raise code info s).clk = s.clk := rfl
@[simp] theorem raise_time (code : FaultCode) (info : BitVec 64) (s : State) : (raise code info s).time = s.time := rfl
@[simp] theorem raise_phase0 (code : FaultCode) (info : BitVec 64) (s : State) : (raise code info s).phase0 = s.phase0 := rfl
@[simp] theorem raise_trace (code : FaultCode) (info : BitVec 64) (s : State) : (raise code info s).trace = s.trace := rfl
@[simp] theorem raise_env (code : FaultCode) (info : BitVec 64) (s : State) : (raise code info s).env = s.env := rfl

/-! `setData` -/

@[simp] theorem setData_cfg (b : Nat) (v : Word) (s : State) : (setData b v s).cfg = s.cfg := rfl
@[simp] theorem setData_program (b : Nat) (v : Word) (s : State) : (setData b v s).program = s.program := rfl
@[simp] theorem setData_position (b : Nat) (v : Word) (s : State) : (setData b v s).position = s.position := rfl
@[simp] theorem setData_result (b : Nat) (v : Word) (s : State) : (setData b v s).result = s.result := rfl
@[simp] theorem setData_fault (b : Nat) (v : Word) (s : State) : (setData b v s).fault = s.fault := rfl
@[simp] theorem setData_faultInfo (b : Nat) (v : Word) (s : State) : (setData b v s).faultInfo = s.faultInfo := rfl
@[simp] theorem setData_mapped (b : Nat) (v : Word) (s : State) : (setData b v s).mapped = s.mapped := rfl
@[simp] theorem setData_outputs (b : Nat) (v : Word) (s : State) : (setData b v s).outputs = s.outputs := rfl
@[simp] theorem setData_inputs (b : Nat) (v : Word) (s : State) : (setData b v s).inputs = s.inputs := rfl
@[simp] theorem setData_reserved (b : Nat) (v : Word) (s : State) : (setData b v s).reserved = s.reserved := rfl
@[simp] theorem setData_wc (b : Nat) (v : Word) (s : State) : (setData b v s).wc = s.wc := rfl
@[simp] theorem setData_memo (b : Nat) (v : Word) (s : State) : (setData b v s).memo = s.memo := rfl
@[simp] theorem setData_timerInit (b : Nat) (v : Word) (s : State) : (setData b v s).timerInit = s.timerInit := rfl
@[simp] theorem setData_detected (b : Nat) (v : Word) (s : State) : (setData b v s).detected = s.detected := rfl
@[simp] theorem setData_active (b : Nat) (v : Word) (s : State) : (setData b v s).active = s.active := rfl
@[simp] theorem setData_counterOk (b : Nat) (v : Word) (s : State) : (setData b v s).counterOk = s.counterOk := rfl
@[simp] theorem setData_pulser (b : Nat) (v : Word) (s : State) : (setData b v s).pulser = s.pulser := rfl
@[simp] theorem setData_data (b : Nat) (v : Word) (s : State) : (setData b v s).data = s.data.set b v := rfl
@[simp] theorem setData_dir (b : Nat) (v : Word) (s : State) : (setData b v s).dir = s.dir := rfl
@[simp] theorem setData_clk (b : Nat) (v : Word) (s : State) : (setData b v s).clk = s.clk := rfl
@[simp] theorem setData_time (b : Nat) (v : Word) (s : State) : (setData b v s).time = s.time := rfl
@[simp] theorem setData_phase0 (b : Nat) (v : Word) (s : State) : (setData b v s).phase0 = s.phase0 := rfl
@[simp] theorem setData_trace (b : Nat) (v : Word) (s : State) : (setData b v s).trace = s.trace := rfl
@[simp] theorem setData_env (b : Nat) (v : Word) (s : State) : (setData b v s).env = s.env := rfl

/-! `setDir` -/

@[simp] theorem setDir_cfg (b : Nat) (v : Word) (s : State) : (setDir b v s).cfg = s.cfg := rfl
@[simp] theorem setDir_program (b : Nat) (v : Word) (s : State) : (setDir b v s).program = s.program := rfl
@[simp] theorem setDir_position (b : Nat) (v : Word) (s : State) : (setDir b v s).position = s.position := rfl
@[simp] theorem setDir_result (b : Nat) (v : Word) (s : State) : (setDir b v s).result = s.result := rfl
@[simp] theorem setDir_fault (b : Nat) (v : Word) (s : State) : (setDir b v s).fault = s.fault := rfl
@[simp] theorem setDir_faultInfo (b : Nat) (v : Word) (s : State) : (setDir b v s).faultInfo = s.faultInfo := rfl
@[simp] theorem setDir_mapped (b : Nat) (v : Word) (s : State) : (setDir b v s).mapped = s.mapped := rfl
@[simp] theorem setDir_outputs (b : Nat) (v : Word) (s : State) : (setDir b v s).outputs = s.outputs := rfl
@[simp] theorem setDir_inputs (b : Nat) (v : Word) (s : State) : (setDir b v s).inputs = s.inputs := rfl
@[simp] theorem setDir_reserved (b : Nat) (v : Word) (s : State) : (setDir b v s).reserved = s.reserved := rfl
@[simp] theorem setDir_wc (b : Nat) (v : Word) (s : State) : (setDir b v s).wc = s.wc := rfl
@[simp] theorem setDir_memo (b : Nat) (v : Word) (s : State) : (setDir b v s).memo = s.memo := rfl
@[simp] theorem setDir_timerInit (b : Nat) (v : Word) (s : State) : (setDir b v s).timerInit = s.timerInit := rfl
@[simp] theorem setDir_detected (b : Nat) (v : Word) (s : State) : (setDir b v s).detected = s.detected := rfl
@[simp] theorem setDir_active (b : Nat) (v : Word) (s : State) : (setDir b v s).active = s.active := rfl
@[simp] theorem setDir_counterOk (b : Nat) (v : Word) (s : State) : (setDir b v s).counterOk = s.counterOk := rfl
@[simp] theorem setDir_pulser (b : Nat) (v : Word) (s : State) : (setDir b v s).pulser = s.pulser := rfl
@[simp] theorem setDir_data (b : Nat) (v : Word) (s : State) : (setDir b v s).data = s.data := rfl
@[simp] theorem setDir_dir (b : Nat) (v : Word) (s : State) : (setDir b v s).dir = s.dir.set b v := rfl
@[simp] theorem setDir_clk (b : Nat) (v : Word) (s : State) : (setDir b v s).clk = s.clk := rfl
@[simp] theorem setDir_time (b : Nat) (v : Word) (s : State) : (setDir b v s).time = s.time := rfl
@[simp] theorem setDir_phase0 (b : Nat) (v : Word) (s : State) : (setDir b v s).phase0 = s.phase0 := rfl
@[simp] theorem setDir_trace (b : Nat) (v : Word) (s : State) : (setDir b v s).trace = s.trace := rfl
@[simp] theorem setDir_env (b : Nat) (v : Word) (s : State) : (setDir b v s).env = s.env := rfl

/-! `setClk` -/

@[simp] theorem setClk_cfg (v : Word) (s : State) : (setClk v s).cfg = s.cfg := rfl
@[simp] theorem setClk_program (v : Word) (s : State) : (setClk v s).program = s.program := rfl
@[simp] theorem setClk_position (v : Word) (s : State) : (setClk v s).position = s.position := rfl
@[simp] theorem setClk_result (v : Word) (s : State) : (setClk v s).result = s.result := rfl
@[simp] theorem setClk_fault (v : Word) (s : State) : (setClk v s).fault = s.fault := rfl
@[simp] theorem setClk_faultInfo (v : Word) (s : State) : (setClk v s).faultInfo = s.faultInfo := rfl
@[simp] theorem setClk_mapped (v : Word) (s : State) : (setClk v s).mapped = s.mapped := rfl
@[simp] theorem setClk_outputs (v : Word) (s : State) : (setClk v s).outputs = s.outputs := rfl
@[simp] theorem setClk_inputs (v : Word) (s : State) : (setClk v s).inputs = s.inputs := rfl
@[simp] theorem setClk_reserved (v : Word) (s : State) : (setClk v s).reserved = s.reserved := rfl
@[simp] theorem setClk_wc (v : Word) (s : State) : (setClk v s).wc = s.wc := rfl
@[simp] theorem setClk_memo (v : Word) (s : State) : (setClk v s).memo = s.memo := rfl
@[simp] theorem setClk_timerInit (v : Word) (s : State) : (setClk v s).timerInit = s.timerInit := rfl
@[simp] theorem setClk_detected (v : Word) (s : State) : (setClk v s).detected = s.detected := rfl
@[simp] theorem setClk_active (v : Word) (s : State) : (setClk v s).active = s.active := rfl
@[simp] theorem setClk_counterOk (v : Word) (s : State) : (setClk v s).counterOk = s.counterOk := rfl
@[simp] theorem setClk_pulser (v : Word) (s : State) : (setClk v s).pulser = s.pulser := rfl
@[simp] theorem setClk_data (v : Word) (s : State) : (setClk v s).data = s.data := rfl
@[simp] theorem setClk_dir (v : Word) (s : State) : (setClk v s).dir = s.dir := rfl
@[simp] theorem setClk_clk (v : Word) (s : State) : (setClk v s).clk = gateField s.clk v := rfl
@[simp] theorem setClk_time (v : Word) (s : State) : (setClk v s).time = s.time := rfl
@[simp] theorem setClk_phase0 (v : Word) (s : State) : (setClk v s).phase0 = s.phase0 := rfl
@[simp] theorem setClk_trace (v : Word) (s : State) : (setClk v s).trace = s.trace := rfl
@[simp] theorem setClk_env (v : Word) (s : State) : (setClk v s).env = s.env := rfl

/-! `setEnv` -/

@[simp] theorem setEnv_cfg (e : Env) (s : State) : (setEnv e s).cfg = s.cfg := rfl
@[simp] theorem setEnv_program (e : Env) (s : State) : (setEnv e s).program = s.program := rfl
@[simp] theorem setEnv_position (e : Env) (s : State) : (setEnv e s).position = s.position := rfl
@[simp] theorem setEnv_result (e : Env) (s : State) : (setEnv e s).result = s.result := rfl
@[simp] theorem setEnv_fault (e : Env) (s : State) : (setEnv e s).fault = s.fault := rfl
@[simp] theorem setEnv_faultInfo (e : Env) (s : State) : (setEnv e s).faultInfo = s.faultInfo := rfl
@[simp] theorem setEnv_mapped (e : Env) (s : State) : (setEnv e s).mapped = s.mapped := rfl
@[simp] theorem setEnv_outputs (e : Env) (s : State) : (setEnv e s).outputs = s.outputs := rfl
@[simp] theorem setEnv_inputs (e : Env) (s : State) : (setEnv e s).inputs = s.inputs := rfl
@[simp] theorem setEnv_reserved (e : Env) (s : State) : (setEnv e s).reserved = s.reserved := rfl
@[simp] theorem setEnv_wc (e : Env) (s : State) : (setEnv e s).wc = s.wc := rfl
@[simp] theorem setEnv_memo (e : Env) (s : State) : (setEnv e s).memo = s.memo := rfl
@[simp] theorem setEnv_timerInit (e : Env) (s : State) : (setEnv e s).timerInit = s.timerInit := rfl
@[simp] theorem setEnv_detected (e : Env) (s : State) : (setEnv e s).detected = s.detected := rfl
@[simp] theorem setEnv_active (e : Env) (s : State) : (setEnv e s).active = s.active := rfl
@[simp] theorem setEnv_counterOk (e : Env) (s : State) : (setEnv e s).counterOk = s.counterOk := rfl
@[simp] theorem setEnv_pulser (e : Env) (s : State) : (setEnv e s).pulser = s.pulser := rfl
@[simp] theorem setEnv_data (e : Env) (s : State) : (setEnv e s).data = s.data := rfl
@[simp] theorem setEnv_dir (e : Env) (s : State) : (setEnv e s).dir = s.dir := rfl
@[simp] theorem setEnv_clk (e : Env) (s : State) : (setEnv e s).clk = s.clk := rfl
@[simp] theorem setEnv_time (e : Env) (s : State) : (setEnv e s).time = s.time := rfl
@[simp] theorem setEnv_phase0 (e : Env) (s : State) : (setEnv e s).phase0 = s.phase0 := rfl
@[simp] theorem setEnv_trace (e : Env) (s : State) : (setEnv e s).trace = s.trace := rfl
@[simp] theorem setEnv_env (e : Env) (s : State) : (setEnv e s).env = e := rfl

/-! `setResult` -/

@[simp] theorem setResult_cfg (v : Word) (s : State) : (setResult v s).cfg = s.cfg := rfl
@[simp] theorem setResult_program (v : Word) (s : State) : (setResult v s).program = s.program := rfl
@[simp] theorem setResult_position (v : Word) (s : State) : (setResult v s).position = s.position := rfl
@[simp] theorem setResult_result (v : Word) (s : State) : (setResult v s).result = some v := rfl
@[simp] theorem setResult_fault (v : Word) (s : State) : (setResult v s).fault = s.fault := rfl
@[simp] theorem setResult_faultInfo (v : Word) (s : State) : (setResult v s).faultInfo = s.faultInfo := rfl
@[simp] theorem setResult_mapped (v : Word) (s : State) : (setResult v s).mapped = s.mapped := rfl
@[simp] theorem setResult_outputs (v : Word) (s : State) : (setResult v s).outputs = s.outputs := rfl
@[simp] theorem setResult_inputs (v : Word) (s : State) : (setResult v s).inputs = s.inputs := rfl
@[simp] theorem setResult_reserved (v : Word) (s : State) : (setResult v s).reserved = s.reserved := rfl
@[simp] theorem setResult_wc (v : Word) (s : State) : (setResult v s).wc = s.wc := rfl
@[simp] theorem setResult_memo (v : Word) (s : State) : (setResult v s).memo = s.memo := rfl
@[simp] theorem setResult_timerInit (v : Word) (s : State) : (setResult v s).timerInit = s.timerInit := rfl
@[simp] theorem setResult_detected (v : Word) (s : State) : (setResult v s).detected = s.detected := rfl
@[simp] theorem setResult_active (v : Word) (s : State) : (setResult v s).active = s.active := rfl
@[simp] theorem setResult_counterOk (v : Word) (s : State) : (setResult v s).counterOk = s.counterOk := rfl
@[simp] theorem setResult_pulser (v : Word) (s : State) : (setResult v s).pulser = s.pulser := rfl
@[simp] theorem setResult_data (v : Word) (s : State) : (setResult v s).data = s.data := rfl
@[simp] theorem setResult_dir (v : Word) (s : State) : (setResult v s).dir = s.dir := rfl
@[simp] theorem setResult_clk (v : Word) (s : State) : (setResult v s).clk = s.clk := rfl
@[simp] theorem setResult_time (v : Word) (s : State) : (setResult v s).time = s.time := rfl
@[simp] theorem setResult_phase0 (v : Word) (s : State) : (setResult v s).phase0 = s.phase0 := rfl
@[simp] theorem setResult_trace (v : Word) (s : State) : (setResult v s).trace = s.trace := rfl
@[simp] theorem setResult_env (v : Word) (s : State) : (setResult v s).env = s.env := rfl

/-! `addOutputs` -/

@[simp] theorem addOutputs_cfg (m : Word) (s : State) : (addOutputs m s).cfg = s.cfg := rfl
@[simp] theorem addOutputs_program (m : Word) (s : State) : (addOutputs m s).program = s.program := rfl
@[simp] theorem addOutputs_position (m : Word) (s : State) : (addOutputs m s).position = s.position := rfl
@[simp] theorem addOutputs_result (m : Word) (s : State) : (addOutputs m s).result = s.result := rfl
@[simp] theorem addOutputs_fault (m : Word) (s : State) : (addOutputs m s).fault = s.fault := rfl
@[simp] theorem addOutputs_faultInfo (m : Word) (s : State) : (addOutputs m s).faultInfo = s.faultInfo := rfl
@[simp] theorem addOutputs_mapped (m : Word) (s : State) : (addOutputs m s).mapped = s.mapped := rfl
@[simp] theorem addOutputs_outputs (m : Word) (s : State) : (addOutputs m s).outputs = s.outputs ||| m := rfl
@[simp] theorem addOutputs_inputs (m : Word) (s : State) : (addOutputs m s).inputs = s.inputs := rfl
@[simp] theorem addOutputs_reserved (m : Word) (s : State) : (addOutputs m s).reserved = s.reserved := rfl
@[simp] theorem addOutputs_wc (m : Word) (s : State) : (addOutputs m s).wc = s.wc := rfl
@[simp] theorem addOutputs_memo (m : Word) (s : State) : (addOutputs m s).memo = s.memo := rfl
@[simp] theorem addOutputs_timerInit (m : Word) (s : State) : (addOutputs m s).timerInit = s.timerInit := rfl
@[simp] theorem addOutputs_detected (m : Word) (s : State) : (addOutputs m s).detected = s.detected := rfl
@[simp] theorem addOutputs_active (m : Word) (s : State) : (addOutputs m s).active = s.active := rfl
@[simp] theorem addOutputs_counterOk (m : Word) (s : State) : (addOutputs m s).counterOk = s.counterOk := rfl
@[simp] theorem addOutputs_pulser (m : Word) (s : State) : (addOutputs m s).pulser = s.pulser := rfl
@[simp] theorem addOutputs_data (m : Word) (s : State) : (addOutputs m s).data = s.data := rfl
@[simp] theorem addOutputs_dir (m : Word) (s : State) : (addOutputs m s).dir = s.dir := rfl
@[simp] theorem addOutputs_clk (m : Word) (s : State) : (addOutputs m s).clk = s.clk := rfl
@[simp] theorem addOutputs_time (m : Word) (s : State) : (addOutputs m s).time = s.time := rfl
@[simp] theorem addOutputs_phase0 (m : Word) (s : State) : (addOutputs m s).phase0 = s.phase0 := rfl
@[simp] theorem addOutputs_trace (m : Word) (s : State) : (addOutputs m s).trace = s.trace := rfl
@[simp] theorem addOutputs_env (m : Word) (s : State) : (addOutputs m s).env = s.env := rfl

/-! `addInputs` -/

@[simp] theorem addInputs_cfg (m : Word) (s : State) : (addInputs m s).cfg = s.cfg := rfl
@[simp] theorem addInputs_program (m : Word) (s : State) : (addInputs m s).program = s.program := rfl
@[simp] theorem addInputs_position (m : Word) (s : State) : (addInputs m s).position = s.position := rfl
@[simp] theorem addInputs_result (m : Word) (s : State) : (addInputs m s).result = s.result := rfl
@[simp] theorem addInputs_fault (m : Word) (s : State) : (addInputs m s).fault = s.fault := rfl
@[simp] theorem addInputs_faultInfo (m : Word) (s : State) : (addInputs m s).faultInfo = s.faultInfo := rfl
@[simp] theorem addInputs_mapped (m : Word) (s : State) : (addInputs m s).mapped = s.mapped := rfl
@[simp] theorem addInputs_outputs (m : Word) (s : State) : (addInputs m s).outputs = s.outputs := rfl
@[simp] theorem addInputs_inputs (m : Word) (s : State) : (addInputs m s).inputs = s.inputs ||| m := rfl
@[simp] theorem addInputs_reserved (m : Word) (s : State) : (addInputs m s).reserved = s.reserved := rfl
@[simp] theorem addInputs_wc (m : Word) (s : State) : (addInputs m s).wc = s.wc := rfl
@[simp] theorem addInputs_memo (m : Word) (s : State) : (addInputs m s).memo = s.memo := rfl
@[simp] theorem addInputs_timerInit (m : Word) (s : State) : (addInputs m s).timerInit = s.timerInit := rfl
@[simp] theorem addInputs_detected (m : Word) (s : State) : (addInputs m s).detected = s.detected := rfl
@[simp] theorem addInputs_active (m : Word) (s : State) : (addInputs m s).active = s.active := rfl
@[simp] theorem addInputs_counterOk (m : Word) (s : State) : (addInputs m s).counterOk = s.counterOk := rfl
@[simp] theorem addInputs_pulser (m : Word) (s : State) : (addInputs m s).pulser = s.pulser := rfl
@[simp] theorem addInputs_data (m : Word) (s : State) : (addInputs m s).data = s.data := rfl
@[simp] theorem addInputs_dir (m : Word) (s : State) : (addInputs m s).dir = s.dir := rfl
@[simp] theorem addInputs_clk (m : Word) (s : State) : (addInputs m s).clk = s.clk := rfl
@[simp] theorem addInputs_time (m : Word) (s : State) : (addInputs m s).time = s.time := rfl
@[simp] theorem addInputs_phase0 (m : Word) (s : State) : (addInputs m s).phase0 = s.phase0 := rfl
@[simp] theorem addInputs_trace (m : Word) (s : State) : (addInputs m s).trace = s.trace := rfl
@[simp] theorem addInputs_env (m : Word) (s : State) : (addInputs m s).env = s.env := rfl

/-! `stage` -/

@[simp] theorem stage_cfg (m : Word) (pol : Polarity) (s : State) : (stage m pol s).cfg = s.cfg := rfl
@[simp] theorem stage_program (m : Word) (pol : Polarity) (s : State) : (stage m pol s).program = s.program := rfl
@[simp] theorem stage_position (m : Word) (pol : Polarity) (s : State) : (stage m pol s).position = s.position := rfl
@[simp] theorem stage_result (m : Word) (pol : Polarity) (s : State) : (stage m pol s).result = s.result := rfl
@[simp] theorem stage_fault (m : Word) (pol : Polarity) (s : State) : (stage m pol s).fault = s.fault := rfl
@[simp] theorem stage_faultInfo (m : Word) (pol : Polarity) (s : State) : (stage m pol s).faultInfo = s.faultInfo := rfl
@[simp] theorem stage_mapped (m : Word) (pol : Polarity) (s : State) : (stage m pol s).mapped = s.mapped := rfl
@[simp] theorem stage_outputs (m : Word) (pol : Polarity) (s : State) : (stage m pol s).outputs = s.outputs := rfl
@[simp] theorem stage_inputs (m : Word) (pol : Polarity) (s : State) : (stage m pol s).inputs = s.inputs := rfl
@[simp] theorem stage_reserved (m : Word) (pol : Polarity) (s : State) : (stage m pol s).reserved = s.reserved := rfl
@[simp] theorem stage_wc (m : Word) (pol : Polarity) (s : State) : (stage m pol s).wc = stageFrom s.cfg m pol 0 s.wc := rfl
@[simp] theorem stage_memo (m : Word) (pol : Polarity) (s : State) : (stage m pol s).memo = s.memo := rfl
@[simp] theorem stage_timerInit (m : Word) (pol : Polarity) (s : State) : (stage m pol s).timerInit = s.timerInit := rfl
@[simp] theorem stage_detected (m : Word) (pol : Polarity) (s : State) : (stage m pol s).detected = s.detected := rfl
@[simp] theorem stage_active (m : Word) (pol : Polarity) (s : State) : (stage m pol s).active = s.active := rfl
@[simp] theorem stage_counterOk (m : Word) (pol : Polarity) (s : State) : (stage m pol s).counterOk = s.counterOk := rfl
@[simp] theorem stage_pulser (m : Word) (pol : Polarity) (s : State) : (stage m pol s).pulser = s.pulser := rfl
@[simp] theorem stage_data (m : Word) (pol : Polarity) (s : State) : (stage m pol s).data = s.data := rfl
@[simp] theorem stage_dir (m : Word) (pol : Polarity) (s : State) : (stage m pol s).dir = s.dir := rfl
@[simp] theorem stage_clk (m : Word) (pol : Polarity) (s : State) : (stage m pol s).clk = s.clk := rfl
@[simp] theorem stage_time (m : Word) (pol : Polarity) (s : State) : (stage m pol s).time = s.time := rfl
@[simp] theorem stage_phase0 (m : Word) (pol : Polarity) (s : State) : (stage m pol s).phase0 = s.phase0 := rfl
@[simp] theorem stage_trace (m : Word) (pol : Polarity) (s : State) : (stage m pol s).trace = s.trace := rfl
@[simp] theorem stage_env (m : Word) (pol : Polarity) (s : State) : (stage m pol s).env = s.env := rfl

/-! `cleanWc` -/

@[simp] theorem cleanWc_cfg (b : Nat) (s : State) : (cleanWc b s).cfg = s.cfg := rfl
@[simp] theorem cleanWc_program (b : Nat) (s : State) : (cleanWc b s).program = s.program := rfl
@[simp] theorem cleanWc_position (b : Nat) (s : State) : (cleanWc b s).position = s.position := rfl
@[simp] theorem cleanWc_result (b : Nat) (s : State) : (cleanWc b s).result = s.result := rfl
@[simp] theorem cleanWc_fault (b : Nat) (s : State) : (cleanWc b s).fault = s.fault := rfl
@[simp] theorem cleanWc_faultInfo (b : Nat) (s : State) : (cleanWc b s).faultInfo = s.faultInfo := rfl
@[simp] theorem cleanWc_mapped (b : Nat) (s : State) : (cleanWc b s).mapped = s.mapped := rfl
@[simp] theorem cleanWc_outputs (b : Nat) (s : State) : (cleanWc b s).outputs = s.outputs := rfl
@[simp] theorem cleanWc_inputs (b : Nat) (s : State) : (cleanWc b s).inputs = s.inputs := rfl
@[simp] theorem cleanWc_reserved (b : Nat) (s : State) : (cleanWc b s).reserved = s.reserved := rfl
@[simp] theorem cleanWc_wc (b : Nat) (s : State) : (cleanWc b s).wc = s.wc.set b WcEntry.clean := rfl
@[simp] theorem cleanWc_memo (b : Nat) (s : State) : (cleanWc b s).memo = s.memo := rfl
@[simp] theorem cleanWc_timerInit (b : Nat) (s : State) : (cleanWc b s).timerInit = s.timerInit := rfl
@[simp] theorem cleanWc_detected (b : Nat) (s : State) : (cleanWc b s).detected = s.detected := rfl
@[simp] theorem cleanWc_active (b : Nat) (s : State) : (cleanWc b s).active = s.active := rfl
@[simp] theorem cleanWc_counterOk (b : Nat) (s : State) : (cleanWc b s).counterOk = s.counterOk := rfl
@[simp] theorem cleanWc_pulser (b : Nat) (s : State) : (cleanWc b s).pulser = s.pulser := rfl
@[simp] theorem cleanWc_data (b : Nat) (s : State) : (cleanWc b s).data = s.data := rfl
@[simp] theorem cleanWc_dir (b : Nat) (s : State) : (cleanWc b s).dir = s.dir := rfl
@[simp] theorem cleanWc_clk (b : Nat) (s : State) : (cleanWc b s).clk = s.clk := rfl
@[simp] theorem cleanWc_time (b : Nat) (s : State) : (cleanWc b s).time = s.time := rfl
@[simp] theorem cleanWc_phase0 (b : Nat) (s : State) : (cleanWc b s).phase0 = s.phase0 := rfl
@[simp] theorem cleanWc_trace (b : Nat) (s : State) : (cleanWc b s).trace = s.trace := rfl
@[simp] theorem cleanWc_env (b : Nat) (s : State) : (cleanWc b s).env = s.env := rfl

/-! `setMemo` -/

@[simp] theorem setMemo_cfg (m : Word) (pol : Polarity) (s : State) : (setMemo m pol s).cfg = s.cfg := rfl
@[simp] theorem setMemo_program (m : Word) (pol : Polarity) (s : State) : (setMemo m pol s).program = s.program := rfl
@[simp] theorem setMemo_position (m : Word) (pol : Polarity) (s : State) : (setMemo m pol s).position = s.position := rfl
@[simp] theorem setMemo_result (m : Word) (pol : Polarity) (s : State) : (setMemo m pol s).result = s.result := rfl
@[simp] theorem setMemo_fault (m : Word) (pol : Polarity) (s : State) : (setMemo m pol s).fault = s.fault := rfl
@[simp] theorem setMemo_faultInfo (m : Word) (pol : Polarity) (s : State) : (setMemo m pol s).faultInfo = s.faultInfo := rfl
@[simp] theorem setMemo_mapped (m : Word) (pol : Polarity) (s : State) : (setMemo m pol s).mapped = s.mapped := rfl
@[simp] theorem setMemo_outputs (m : Word) (pol : Polarity) (s : State) : (setMemo m pol s).outputs = s.outputs := rfl
@[simp] theorem setMemo_inputs (m : Word) (pol : Polarity) (s : State) : (setMemo m pol s).inputs = s.inputs := rfl
@[simp] theorem setMemo_reserved (m : Word) (pol : Polarity) (s : State) : (setMemo m pol s).reserved = s.reserved := rfl
@[simp] theorem setMemo_wc (m : Word) (pol : Polarity) (s : State) : (setMemo m pol s).wc = s.wc := rfl
@[simp] theorem setMemo_memo (m : Word) (pol : Polarity) (s : State) : (setMemo m pol s).memo = some ⟨m, pol⟩ := rfl
@[simp] theorem setMemo_timerInit (m : Word) (pol : Polarity) (s : State) : (setMemo m pol s).timerInit = s.timerInit := rfl
@[simp] theorem setMemo_detected (m : Word) (pol : Polarity) (s : State) : (setMemo m pol s).detected = s.detected := rfl
@[simp] theorem setMemo_active (m : Word) (pol : Polarity) (s : State) : (setMemo m pol s).active = s.active := rfl
@[simp] theorem setMemo_counterOk (m : Word) (pol : Polarity) (s : State) : (setMemo m pol s).counterOk = s.counterOk := rfl
@[simp] theorem setMemo_pulser (m : Word) (pol : Polarity) (s : State) : (setMemo m pol s).pulser = s.pulser := rfl
@[simp] theorem setMemo_data (m : Word) (pol : Polarity) (s : State) : (setMemo m pol s).data = s.data := rfl
@[simp] theorem setMemo_dir (m : Word) (pol : Polarity) (s : State) : (setMemo m pol s).dir = s.dir := rfl
@[simp] theorem setMemo_clk (m : Word) (pol : Polarity) (s : State) : (setMemo m pol s).clk = s.clk := rfl
@[simp] theorem setMemo_time (m : Word) (pol : Polarity) (s : State) : (setMemo m pol s).time = s.time := rfl
@[simp] theorem setMemo_phase0 (m : Word) (pol : Polarity) (s : State) : (setMemo m pol s).phase0 = s.phase0 := rfl
@[simp] theorem setMemo_trace (m : Word) (pol : Polarity) (s : State) : (setMemo m pol s).trace = s.trace := rfl
@[simp] theorem setMemo_env (m : Word) (pol : Polarity) (s : State) : (setMemo m pol s).env = s.env := rfl

/-! `startTimer` -/

@[simp] theorem startTimer_cfg (d : Detected) (s : State) : (startTimer d s).cfg = s.cfg := rfl
@[simp] theorem startTimer_program (d : Detected) (s : State) : (startTimer d s).program = s.program := rfl
@[simp] theorem startTimer_position (d : Detected) (s : State) : (startTimer d s).position = s.position := rfl
@[simp] theorem startTimer_result (d : Detected) (s : State) : (startTimer d s).result = s.result := rfl
@[simp] theorem startTimer_fault (d : Detected) (s : State) : (startTimer d s).fault = s.fault := rfl
@[simp] theorem startTimer_faultInfo (d : Detected) (s : State) : (startTimer d s).faultInfo = s.faultInfo := rfl
@[simp] theorem startTimer_mapped (d : Detected) (s : State) : (startTimer d s).mapped = s.mapped := rfl
@[simp] theorem startTimer_outputs (d : Detected) (s : State) : (startTimer d s).outputs = s.outputs := rfl
@[simp] theorem startTimer_inputs (d : Detected) (s : State) : (startTimer d s).inputs = s.inputs := rfl
@[simp] theorem startTimer_reserved (d : Detected) (s : State) : (startTimer d s).reserved = s.reserved := rfl
@[simp] theorem startTimer_wc (d : Detected) (s : State) : (startTimer d s).wc = s.wc := rfl
@[simp] theorem startTimer_memo (d : Detected) (s : State) : (startTimer d s).memo = s.memo := rfl
@[simp] theorem startTimer_timerInit (d : Detected) (s : State) : (startTimer d s).timerInit = true := rfl
@[simp] theorem startTimer_detected (d : Detected) (s : State) : (startTimer d s).detected = d := rfl
@[simp] theorem startTimer_active (d : Detected) (s : State) : (startTimer d s).active = s.cfg.forcedProfile := rfl
@[simp] theorem startTimer_counterOk (d : Detected) (s : State) : (startTimer d s).counterOk = (s.cfg.counterAccessible && s.cfg.hostPrivileged) := rfl
@[simp] theorem startTimer_pulser (d : Detected) (s : State) : (startTimer d s).pulser = s.pulser := rfl
@[simp] theorem startTimer_data (d : Detected) (s : State) : (startTimer d s).data = s.data := rfl
@[simp] theorem startTimer_dir (d : Detected) (s : State) : (startTimer d s).dir = s.dir := rfl
@[simp] theorem startTimer_clk (d : Detected) (s : State) : (startTimer d s).clk = s.clk := rfl
@[simp] theorem startTimer_time (d : Detected) (s : State) : (startTimer d s).time = s.time := rfl
@[simp] theorem startTimer_phase0 (d : Detected) (s : State) : (startTimer d s).phase0 = s.phase0 := rfl
@[simp] theorem startTimer_trace (d : Detected) (s : State) : (startTimer d s).trace = s.trace := rfl
@[simp] theorem startTimer_env (d : Detected) (s : State) : (startTimer d s).env = s.env := rfl

/-! `setPulser` -/

@[simp] theorem setPulser_cfg (p : Pulser) (s : State) : (setPulser p s).cfg = s.cfg := rfl
@[simp] theorem setPulser_program (p : Pulser) (s : State) : (setPulser p s).program = s.program := rfl
@[simp] theorem setPulser_position (p : Pulser) (s : State) : (setPulser p s).position = s.position := rfl
@[simp] theorem setPulser_result (p : Pulser) (s : State) : (setPulser p s).result = s.result := rfl
@[simp] theorem setPulser_fault (p : Pulser) (s : State) : (setPulser p s).fault = s.fault := rfl
@[simp] theorem setPulser_faultInfo (p : Pulser) (s : State) : (setPulser p s).faultInfo = s.faultInfo := rfl
@[simp] theorem setPulser_mapped (p : Pulser) (s : State) : (setPulser p s).mapped = s.mapped := rfl
@[simp] theorem setPulser_outputs (p : Pulser) (s : State) : (setPulser p s).outputs = s.outputs := rfl
@[simp] theorem setPulser_inputs (p : Pulser) (s : State) : (setPulser p s).inputs = s.inputs := rfl
@[simp] theorem setPulser_reserved (p : Pulser) (s : State) : (setPulser p s).reserved = s.reserved := rfl
@[simp] theorem setPulser_wc (p : Pulser) (s : State) : (setPulser p s).wc = s.wc := rfl
@[simp] theorem setPulser_memo (p : Pulser) (s : State) : (setPulser p s).memo = s.memo := rfl
@[simp] theorem setPulser_timerInit (p : Pulser) (s : State) : (setPulser p s).timerInit = s.timerInit := rfl
@[simp] theorem setPulser_detected (p : Pulser) (s : State) : (setPulser p s).detected = s.detected := rfl
@[simp] theorem setPulser_active (p : Pulser) (s : State) : (setPulser p s).active = s.active := rfl
@[simp] theorem setPulser_counterOk (p : Pulser) (s : State) : (setPulser p s).counterOk = s.counterOk := rfl
@[simp] theorem setPulser_pulser (p : Pulser) (s : State) : (setPulser p s).pulser = some p := rfl
@[simp] theorem setPulser_data (p : Pulser) (s : State) : (setPulser p s).data = s.data := rfl
@[simp] theorem setPulser_dir (p : Pulser) (s : State) : (setPulser p s).dir = s.dir := rfl
@[simp] theorem setPulser_clk (p : Pulser) (s : State) : (setPulser p s).clk = s.clk := rfl
@[simp] theorem setPulser_time (p : Pulser) (s : State) : (setPulser p s).time = s.time := rfl
@[simp] theorem setPulser_phase0 (p : Pulser) (s : State) : (setPulser p s).phase0 = s.phase0 := rfl
@[simp] theorem setPulser_trace (p : Pulser) (s : State) : (setPulser p s).trace = s.trace := rfl
@[simp] theorem setPulser_env (p : Pulser) (s : State) : (setPulser p s).env = s.env := rfl

/-! `setMapped` -/

@[simp] theorem setMapped_cfg (s : State) : (setMapped s).cfg = s.cfg := rfl
@[simp] theorem setMapped_program (s : State) : (setMapped s).program = s.program := rfl
@[simp] theorem setMapped_position (s : State) : (setMapped s).position = s.position := rfl
@[simp] theorem setMapped_result (s : State) : (setMapped s).result = s.result := rfl
@[simp] theorem setMapped_fault (s : State) : (setMapped s).fault = s.fault := rfl
@[simp] theorem setMapped_faultInfo (s : State) : (setMapped s).faultInfo = s.faultInfo := rfl
@[simp] theorem setMapped_mapped (s : State) : (setMapped s).mapped = true := rfl
@[simp] theorem setMapped_outputs (s : State) : (setMapped s).outputs = s.outputs := rfl
@[simp] theorem setMapped_inputs (s : State) : (setMapped s).inputs = s.inputs := rfl
@[simp] theorem setMapped_reserved (s : State) : (setMapped s).reserved = s.reserved := rfl
@[simp] theorem setMapped_wc (s : State) : (setMapped s).wc = s.wc := rfl
@[simp] theorem setMapped_memo (s : State) : (setMapped s).memo = s.memo := rfl
@[simp] theorem setMapped_timerInit (s : State) : (setMapped s).timerInit = s.timerInit := rfl
@[simp] theorem setMapped_detected (s : State) : (setMapped s).detected = s.detected := rfl
@[simp] theorem setMapped_active (s : State) : (setMapped s).active = s.active := rfl
@[simp] theorem setMapped_counterOk (s : State) : (setMapped s).counterOk = s.counterOk := rfl
@[simp] theorem setMapped_pulser (s : State) : (setMapped s).pulser = s.pulser := rfl
@[simp] theorem setMapped_data (s : State) : (setMapped s).data = s.data := rfl
@[simp] theorem setMapped_dir (s : State) : (setMapped s).dir = s.dir := rfl
@[simp] theorem setMapped_clk (s : State) : (setMapped s).clk = s.clk := rfl
@[simp] theorem setMapped_time (s : State) : (setMapped s).time = s.time := rfl
@[simp] theorem setMapped_phase0 (s : State) : (setMapped s).phase0 = s.phase0 := rfl
@[simp] theorem setMapped_trace (s : State) : (setMapped s).trace = s.trace := rfl
@[simp] theorem setMapped_env (s : State) : (setMapped s).env = s.env := rfl

end Sys2Proof.Machine
end

