-- ==== Sys2Proof/Laws/Device.lean ====
section
/-! SUPPORT. What a device access does under a well-formed configuration once the clock gate is written
(R61, R62, R106), and the frame every sequence of device accesses keeps. -/

namespace Sys2Proof.Machine

@[simp] theorem Res.bind_ok {α β : Type} (a : α) (r : Run) (f : α → Run → Res β) :
    (Res.ok a r).bind f = f a r := rfl

@[simp] theorem Res.bind_raised {α β : Type} (s : State) (f : α → Run → Res β) :
    (Res.raised s).bind f = .raised s := rfl

@[simp] theorem Res.final_ok {α : Type} (a : α) (r : Run) : (Res.ok a r).final = r.st := rfl

@[simp] theorem Res.final_raised {α : Type} (s : State) : (Res.raised s : Res α).final = s := rfl

@[simp] theorem dataIdx_eq : dataIdx = 0 := rfl

@[simp] theorem dirIdx_eq : dirIdx = 1 := rfl

@[simp] theorem tickNs_eq : Config.tickNs = 1000 := rfl

/-- What device accesses never change, and the way they move the rest: the tables keep their lengths,
time does not go back, the trace only grows. -/
structure DevFrame (s t : State) : Prop where
  cfg : t.cfg = s.cfg
  program : t.program = s.program
  position : t.position = s.position
  result : t.result = s.result
  fault : t.fault = s.fault
  faultInfo : t.faultInfo = s.faultInfo
  mapped : t.mapped = s.mapped
  outputs : t.outputs = s.outputs
  inputs : t.inputs = s.inputs
  reserved : t.reserved = s.reserved
  memo : t.memo = s.memo
  timerInit : t.timerInit = s.timerInit
  detected : t.detected = s.detected
  active : t.active = s.active
  counterOk : t.counterOk = s.counterOk
  pulser : t.pulser = s.pulser
  phase0 : t.phase0 = s.phase0
  wcLen : t.wc.length = s.wc.length
  dataLen : t.data.length = s.data.length
  dirLen : t.dir.length = s.dir.length
  time : s.time ≤ t.time

theorem DevFrame.refl (s : State) : DevFrame s s := by
  constructor <;> rfl

theorem DevFrame.trans {s t u : State} (h : DevFrame s t) (k : DevFrame t u) : DevFrame s u where
  cfg := k.cfg.trans h.cfg
  program := k.program.trans h.program
  position := k.position.trans h.position
  result := k.result.trans h.result
  fault := k.fault.trans h.fault
  faultInfo := k.faultInfo.trans h.faultInfo
  mapped := k.mapped.trans h.mapped
  outputs := k.outputs.trans h.outputs
  inputs := k.inputs.trans h.inputs
  reserved := k.reserved.trans h.reserved
  memo := k.memo.trans h.memo
  timerInit := k.timerInit.trans h.timerInit
  detected := k.detected.trans h.detected
  active := k.active.trans h.active
  counterOk := k.counterOk.trans h.counterOk
  pulser := k.pulser.trans h.pulser
  phase0 := k.phase0.trans h.phase0
  wcLen := k.wcLen.trans h.wcLen
  dataLen := k.dataLen.trans h.dataLen
  dirLen := k.dirLen.trans h.dirLen
  time := h.time.trans k.time

/-- The device frame as one equation. -/
theorem DevFrame.eq {s t : State} (h : DevFrame s t) :
    t = { s with wc := t.wc, data := t.data, dir := t.dir, clk := t.clk, trace := t.trace, time := t.time,
                 env := t.env } :=
  State.ext h.cfg h.program h.position h.result h.fault h.faultInfo h.mapped h.outputs h.inputs h.reserved rfl
    h.memo h.timerInit h.detected h.active h.counterOk h.pulser rfl rfl rfl rfl h.phase0 rfl rfl

/-- An event alone keeps the device frame (R170: time does not go back). -/
theorem emit_frame (e : Event) (s : State) : DevFrame s (emit e s) := by
  constructor <;> first | rfl | (simp; omega)

theorem setEnv_frame (e : Env) (s : State) : DevFrame s (setEnv e s) := by
  constructor <;> rfl

theorem setClk_frame (v : Word) (s : State) : DevFrame s (setClk v s) := by
  constructor <;> rfl

theorem setData_frame (b : Nat) (v : Word) (s : State) : DevFrame s (setData b v s) := by
  constructor <;> first | rfl | exact Nat.le_refl _ | simp

theorem setDir_frame (b : Nat) (v : Word) (s : State) : DevFrame s (setDir b v s) := by
  constructor <;> first | rfl | exact Nat.le_refl _ | simp

theorem cleanWc_frame (b : Nat) (s : State) : DevFrame s (cleanWc b s) := by
  constructor <;> first | rfl | exact Nat.le_refl _ | simp

theorem getD_set_eq {α : Type} (l : List α) (i : Nat) (v d : α) (h : i < l.length) :
    (l.set i v).getD i d = v := by
  simp [List.getD_eq_getElem?_getD, h]

theorem getD_set_ne {α : Type} (l : List α) {i j : Nat} (v d : α) (h : i ≠ j) :
    (l.set i v).getD j d = l.getD j d := by
  simp [List.getD_eq_getElem?_getD, List.getElem?_set_ne h]

/-- A read of a bank's register once the clock gate is written (R61). -/
theorem devRead_bank {r : Run} (h : r.st.cfg.wellFormed = true) {b : Nat} (hb : b < r.st.cfg.numBanks)
    (hg : r.gated = true) {idx : Nat} (hi : idx ≤ 1) :
    devRead (readWindow r.st.cfg b) idx r =
      .ok (regValue (.bank b) idx r.st)
        ⟨emit (.regRead (r.st.cfg.bankBase b + 4 * idx) (regValue (.bank b) idx r.st))
          (setEnv (regReadEnv (.bank b) idx r.st) r.st), true⟩ := by
  have hc := bankWindow_covers h hb (.bank b) .read hi
  obtain ⟨s, g⟩ := r
  simp only at hg hc ⊢
  subst hg
  simp [devRead, readWindow, hc]

/-- A write of a bank's register once the clock gate is written (R62). -/
theorem devWrite_bank {r : Run} (h : r.st.cfg.wellFormed = true) {b : Nat} (hb : b < r.st.cfg.numBanks)
    (hg : r.gated = true) {idx : Nat} (hi : idx ≤ 1) (v : Word) :
    devWrite (writeWindow r.st.cfg b) idx v r =
      .ok () ⟨emit (.regWrite (r.st.cfg.bankBase b + 4 * idx) v) (regWrite (.bank b) idx v r.st), true⟩ := by
  have hc := bankWindow_covers h hb (.bank b) .write hi
  obtain ⟨s, g⟩ := r
  simp only at hg hc ⊢
  subst hg
  simp [devWrite, writeWindow, hc]

/-- A write of the clock-control register (R59, R62). -/
theorem devWrite_clock {r : Run} (h : r.st.cfg.wellFormed = true) (v : Word) :
    devWrite (clockWriteWindow r.st.cfg) 0 v r =
      .ok () ⟨emit (.regWrite r.st.cfg.clkAddr v) (setClk v r.st), r.gated || v == clkGateWord r.st.cfg⟩ := by
  have hc := clockWindow_covers h .write
  simp [devWrite, clockWriteWindow, hc, Window.isBank, regWrite, isGateWrite]

/-- `ClockEnable()` (R106): the gate field is written, and the command may access banks (R60). -/
theorem clockEnable_ok {r : Run} (h : r.st.cfg.wellFormed = true) :
    clockEnable r = .ok () ⟨emit (gateEvent r.st.cfg) (setClk (clkGateWord r.st.cfg) r.st), true⟩ := by
  have hc := clockWindow_covers h .write
  simp [clockEnable, devWrite, clockWriteWindow, hc, gateEvent, Window.isBank, regWrite, isGateWrite]

/-- The value of a data read is one R58 allows. -/
theorem regValue_mayRead (s : State) (b : Nat) : s.MayRead b (regValue (.bank b) 0 s) := by
  simp only [State.MayRead, regValue, dataIdx_eq, if_true]
  cases s.cfg.dataReadMode with
  | latch => rfl
  | pinForInputs => exact ⟨_, rfl⟩

@[simp] theorem regValue_dir (s : State) (b : Nat) : regValue (.bank b) 1 s = s.dirOf b := rfl

/-- What R58 allows depends on the bank's two registers and the mode only. -/
theorem MayRead_congr {s t : State} {b : Nat} {x : Word} (hc : t.cfg = s.cfg) (hd : t.dataOf b = s.dataOf b)
    (hr : t.dirOf b = s.dirOf b) : t.MayRead b x ↔ s.MayRead b x := by
  simp only [State.MayRead, hc, hd, hr]

/-- At output bits a data read gives the latch, in either mode (R58). -/
theorem MayRead_outputs {s : State} {b : Nat} {x : Word} (h : s.MayRead b x) :
    x &&& s.dirOf b = s.dataOf b &&& s.dirOf b := by
  simp only [State.MayRead] at h
  split at h
  · rw [h]
  · obtain ⟨pins, rfl⟩ := h
    apply BitVec.eq_of_getLsbD_eq
    intro k _
    simp only [BitVec.getLsbD_and, BitVec.getLsbD_or, BitVec.getLsbD_not]
    cases (s.dirOf b).getLsbD k <;> simp

end Sys2Proof.Machine
end

