-- ==== Sys2Proof/Laws/Flush.lean ====
section
/-! SUPPORT. Staging and flushing (R137, R138) and the common body of SET_BITS and CLEAR_BITS: what each
does once it has run. -/

namespace Sys2Proof.Machine

/-- Staging entry by entry (R137). -/
theorem getD_stageFrom (cfg : Cfg) (m : Word) (pol : Polarity) (es : List WcEntry) (k b : Nat)
    (hb : b < es.length) :
    (stageFrom cfg m pol k es).getD b WcEntry.clean =
      (es.getD b WcEntry.clean).stage (perBank cfg m (k + b)) pol := by
  induction es generalizing k b with
  | nil => simp at hb
  | cons e es ih =>
    cases b with
    | zero => simp [stageFrom]
    | succ b =>
      simp only [stageFrom, List.getD_cons_succ]
      rw [ih (k + 1) b (by simpa using hb)]
      congr 2
      omega

@[simp] theorem length_stageFrom (cfg : Cfg) (m : Word) (pol : Polarity) (es : List WcEntry) (k : Nat) :
    (stageFrom cfg m pol k es).length = es.length := by
  induction es generalizing k with
  | nil => rfl
  | cons e es ih => simp [stageFrom, ih]

@[simp] theorem WcEntry.stage_zero (e : WcEntry) (pol : Polarity) : e.stage 0#32 pol = e := rfl

/-- An entry after staging, whatever the bank (R137). -/
theorem stage_wcOf {s : State} (h : s.cfg.wellFormed = true) (hs : s.Sized) (m : Word) (pol : Polarity)
    (b : Nat) : (stage m pol s).wcOf b = (s.wcOf b).stage (perBank s.cfg m b) pol := by
  by_cases hb : b < s.wc.length
  · simpa [State.wcOf] using getD_stageFrom s.cfg m pol s.wc 0 b hb
  · have hb' : s.wc.length ≤ b := by omega
    rw [perBank_of_ge h m (by rw [← hs.1]; exact hb')]
    simp only [State.wcOf, stage_wc, List.getD_eq_getElem?_getD, length_stageFrom, List.getElem?_eq_none, hb',
      Option.getD_none, WcEntry.stage_zero]

/-- Every entry of a quiet state is clean. -/
theorem wcOf_quiet {s : State} (h : s.Quiet) (b : Nat) : s.wcOf b = WcEntry.clean := by
  simp only [State.wcOf, List.getD_eq_getElem?_getD]
  cases hb : s.wc[b]? with
  | none => rfl
  | some e => exact h e (List.mem_of_getElem? hb)

/-- A table whose entries are all clean, of the same length, is the same table. -/
theorem wc_eq_of_clean {s t : State} (hs : s.Quiet) (hl : t.wc.length = s.wc.length)
    (ht : ∀ b, t.wcOf b = WcEntry.clean) : t.wc = s.wc := by
  apply List.ext_getElem hl
  intro b h1 h2
  have h3 := ht b
  have h4 := wcOf_quiet hs b
  simp only [State.wcOf, List.getD_eq_getElem?_getD, List.getElem?_eq_getElem h1,
    List.getElem?_eq_getElem h2, Option.getD_some] at h3 h4
  rw [h3, h4]

/-- The two events of one bank's flush (R138). -/
def bankEvents (cfg : Cfg) (e : Nat → WcEntry) (x : Nat → Word) (b : Nat) : List Event :=
  [.regRead (cfg.bankBase b) (x b), .regWrite (cfg.bankBase b) ((e b).apply (x b))]

/-- The flush of one dirty bank of one polarity (R138). -/
theorem flushBank_dirty {r : Run} (h : r.st.cfg.wellFormed = true) (hg : r.gated = true)
    {b : Nat} (hb : b < r.st.cfg.numBanks) (hd : (r.st.wcOf b).dirty = true)
    (hm : (r.st.wcOf b).mixed = false) :
    ∃ x r', flushBank b r = .ok () r' ∧ r'.gated = true ∧ DevFrame r.st r'.st ∧ r'.st.dir = r.st.dir ∧
      r'.st.clk = r.st.clk ∧ r.st.MayRead b x ∧
      r'.st.data = r.st.data.set b ((r.st.wcOf b).apply x) ∧
      r'.st.wc = r.st.wc.set b WcEntry.clean ∧
      r'.st.trace = r.st.trace ++ bankEvents r.st.cfg r.st.wcOf (fun _ => x) b := by
  have hread := devRead_bank h hb hg (Nat.zero_le 1)
  set x := regValue (.bank b) 0 r.st with hx
  set r1 : Run := ⟨emit (.regRead (r.st.cfg.bankBase b + 4 * 0) x)
    (setEnv (regReadEnv (.bank b) 0 r.st) r.st), true⟩ with hr1
  have hwrite := devWrite_bank (r := r1) (by simpa [hr1] using h) (by simpa [hr1] using hb) rfl
    (Nat.zero_le 1) ((r.st.wcOf b).apply x)
  have hdo : flushBank b r = .ok () ⟨cleanWc b (emit (.regWrite (r1.st.cfg.bankBase b + 4 * 0)
      ((r.st.wcOf b).apply x)) (regWrite (.bank b) 0 ((r.st.wcOf b).apply x) r1.st)), true⟩ := by
    simp only [flushBank, hd, hm, dataIdx_eq, Bool.not_true, Bool.false_eq_true, if_false]
    rw [hread]
    simp only [Res.bind_ok]
    rw [hwrite]
    simp only [Res.bind_ok]
  refine ⟨x, _, hdo, rfl, ?_, ?_, ?_, ?_, ?_, ?_, ?_⟩
  · refine DevFrame.trans ?_ (cleanWc_frame _ _)
    refine DevFrame.trans ?_ (emit_frame _ _)
    refine DevFrame.trans ?_ (setData_frame _ _ _)
    refine DevFrame.trans ?_ (emit_frame _ _)
    exact setEnv_frame _ _
  · simp [hr1, regWrite]
  · simp [hr1, regWrite]
  · exact regValue_mayRead r.st b
  · simp [hr1, regWrite]
  · simp [hr1, regWrite]
  · simp [hr1, regWrite, bankEvents]

/-- A clean bank is left alone (R138). -/
theorem flushBank_clean {r : Run} {b : Nat} (hd : (r.st.wcOf b).dirty = false) :
    flushBank b r = .ok () r := by
  simp [flushBank, hd]

/-- The flush of banks one after another (R138). -/
theorem forEach_flushBank {bs : List Nat} (hn : bs.Nodup) {r : Run} (hlt : ∀ b ∈ bs, b < r.st.cfg.numBanks)
    (h : r.st.cfg.wellFormed = true) (hs : r.st.Sized) (hg : r.gated = true)
    (hm : ∀ b ∈ bs, (r.st.wcOf b).dirty = true → (r.st.wcOf b).mixed = false) :
    ∃ x r', forEach bs flushBank r = .ok () r' ∧ r'.gated = true ∧ DevFrame r.st r'.st ∧
      r'.st.dir = r.st.dir ∧ r'.st.clk = r.st.clk ∧
      (∀ b ∈ bs, (r.st.wcOf b).dirty = true → r.st.MayRead b (x b)) ∧
      (∀ b, r'.st.dataOf b =
        if b ∈ bs ∧ (r.st.wcOf b).dirty = true then (r.st.wcOf b).apply (x b) else r.st.dataOf b) ∧
      (∀ b, r'.st.wcOf b = if b ∈ bs ∧ (r.st.wcOf b).dirty = true then WcEntry.clean else r.st.wcOf b) ∧
      r'.st.trace = r.st.trace ++
        (bs.filter fun b => (r.st.wcOf b).dirty).flatMap (bankEvents r.st.cfg r.st.wcOf x) := by
  induction bs generalizing r with
  | nil => exact ⟨fun _ => 0, r, rfl, hg, DevFrame.refl _, rfl, rfl, by simp, by simp, by simp, by simp⟩
  | cons c bs ih =>
    have hcn : c ∉ bs := (List.nodup_cons.1 hn).1
    cases hd : (r.st.wcOf c).dirty with
    | false =>
      obtain ⟨x, r', h1, h2, h3, h4, h5, h6, h7, h8, h9⟩ := ih (List.nodup_cons.1 hn).2
        (fun b hb => hlt b (List.mem_cons_of_mem _ hb)) h hs hg
        (fun b hb => hm b (List.mem_cons_of_mem _ hb))
      refine ⟨x, r', ?_, h2, h3, h4, h5, ?_, ?_, ?_, ?_⟩
      · simp only [forEach, flushBank_clean hd, Res.bind_ok, h1]
      · intro b hb hdb
        rcases List.mem_cons.1 hb with rfl | hb
        · rw [hd] at hdb; cases hdb
        · exact h6 b hb hdb
      · intro b
        rw [h7 b]
        by_cases hbc : b = c
        · subst hbc; simp [hd]
        · simp [hbc]
      · intro b
        rw [h8 b]
        by_cases hbc : b = c
        · subst hbc; simp [hd]
        · simp [hbc]
      · rw [h9]; simp [hd]
    | true =>
      obtain ⟨x0, r1, g1, g2, g3, g4, g5, g6, g7, g8, g9⟩ := flushBank_dirty h hg
        (hlt c List.mem_cons_self) hd (hm c List.mem_cons_self hd)
      have hs1 : r1.st.Sized := by
        simp only [State.Sized, g3.wcLen, g3.dataLen, g3.dirLen, g3.cfg]; exact hs
      have hwc : ∀ b, b ≠ c → r1.st.wcOf b = r.st.wcOf b := by
        intro b hb; simp only [State.wcOf, g8, getD_set_ne _ _ _ (Ne.symm hb)]
      have hdata : ∀ b, b ≠ c → r1.st.dataOf b = r.st.dataOf b := by
        intro b hb; simp only [State.dataOf, g7, getD_set_ne _ _ _ (Ne.symm hb)]
      have hcl : c < r.st.wc.length := by rw [hs.1]; exact hlt c List.mem_cons_self
      have hcd : c < r.st.data.length := by rw [hs.2.1]; exact hlt c List.mem_cons_self
      have hdir : ∀ b, r1.st.dirOf b = r.st.dirOf b := by intro b; simp only [State.dirOf, g4]
      obtain ⟨x, r', h1, h2, h3, h4, h5, h6, h7, h8, h9⟩ := ih (r := r1) (List.nodup_cons.1 hn).2
        (fun b hb => by rw [g3.cfg]; exact hlt b (List.mem_cons_of_mem _ hb)) (by rw [g3.cfg]; exact h) hs1 g2
        (fun b hb => by
          rw [hwc b (fun hbc => hcn (hbc ▸ hb))]
          exact hm b (List.mem_cons_of_mem _ hb))
      refine ⟨fun b => if b = c then x0 else x b, r', ?_, h2, g3.trans h3, h4.trans g4, h5.trans g5, ?_, ?_, ?_, ?_⟩
      · simp only [forEach, g1, Res.bind_ok, h1]
      · intro b hb hdb
        by_cases hbc : b = c
        · subst hbc; simpa using g6
        · have hb' : b ∈ bs := by simpa [hbc] using hb
          simp only [hbc, if_false]
          have := h6 b hb' (by rw [hwc b hbc]; exact hdb)
          exact (MayRead_congr g3.cfg (hdata b hbc) (hdir b)).1 this
      · intro b
        rw [h7 b]
        by_cases hbc : b = c
        · subst hbc
          simp only [hcn, false_and, if_false, List.mem_cons, true_or, hd, and_self, if_true]
          simp only [State.dataOf, g7, getD_set_eq _ _ _ _ hcd]
        · simp only [hwc b hbc, hdata b hbc, List.mem_cons, hbc, false_or, if_false]
      · intro b
        rw [h8 b]
        by_cases hbc : b = c
        · subst hbc
          simp only [hcn, false_and, if_false, List.mem_cons, true_or, hd, and_self, if_true]
          simp only [State.wcOf, g8, getD_set_eq _ _ _ _ hcl]
        · simp only [hwc b hbc, List.mem_cons, hbc, false_or]
      · have hf : bs.filter (fun b => (r1.st.wcOf b).dirty) = bs.filter fun b => (r.st.wcOf b).dirty :=
          List.filter_congr fun b hb => by rw [hwc b (fun hbc => hcn (hbc ▸ hb))]
        rw [h9, g9, hf, List.filter_cons, hd, if_pos rfl, List.flatMap_cons, List.append_assoc]
        congr 1
        simp only [bankEvents, if_true, List.cons_append, List.nil_append]
        congr 2
        rw [List.flatMap_congr]
        intro b hb
        have hbc : b ≠ c := fun hbc => hcn (hbc ▸ (List.mem_filter.1 hb).1)
        simp only [bankEvents, hbc, if_false, hwc b hbc, g3.cfg]

/-- `flushStep()` (R138) on a state without a mixed dirty entry: nothing when no entry is dirty, else the
clock gate and then the dirty banks in ascending order. -/
theorem flushStep_ok {r : Run} (h : r.st.cfg.wellFormed = true) (hs : r.st.Sized)
    (hm : ∀ b, (r.st.wcOf b).dirty = true → (r.st.wcOf b).mixed = false) :
    ∃ x r', flushStep r = .ok () r' ∧ DevFrame r.st r'.st ∧ r'.st.dir = r.st.dir ∧
      r'.st.clk = (if anyDirty r.st then gateField r.st.clk (clkGateWord r.st.cfg) else r.st.clk) ∧
      (∀ b, (r.st.wcOf b).dirty = true → r.st.MayRead b (x b)) ∧
      (∀ b, r'.st.dataOf b =
        if (r.st.wcOf b).dirty = true then (r.st.wcOf b).apply (x b) else r.st.dataOf b) ∧
      (∀ b, r'.st.wcOf b = if (r.st.wcOf b).dirty = true then WcEntry.clean else r.st.wcOf b) ∧
      r'.st.trace = r.st.trace ++
        if anyDirty r.st then
          gateEvent r.st.cfg :: ((banksAscending r.st.cfg).filter fun b => (r.st.wcOf b).dirty).flatMap
            (bankEvents r.st.cfg r.st.wcOf x)
        else [] := by
  have hmem : ∀ b, (r.st.wcOf b).dirty = true → b ∈ banksAscending r.st.cfg := by
    intro b hd
    by_contra hb
    have hb' : r.st.wc.length ≤ b := by
      rw [hs.1]; simpa [banksAscending] using hb
    simp [State.wcOf, List.getD_eq_getElem?_getD, hb', WcEntry.clean] at hd
  by_cases ha : anyDirty r.st = true
  · set r0 : Run := ⟨emit (gateEvent r.st.cfg) (setClk (clkGateWord r.st.cfg) r.st), true⟩ with hr0
    have hf0 : DevFrame r.st r0.st := (setClk_frame _ _).trans (emit_frame _ _)
    have hwc0 : ∀ b, r0.st.wcOf b = r.st.wcOf b := fun b => rfl
    have hdata0 : ∀ b, r0.st.dataOf b = r.st.dataOf b := fun b => rfl
    have hdir0 : ∀ b, r0.st.dirOf b = r.st.dirOf b := fun b => rfl
    obtain ⟨x, r', h1, h2, h3, h4, h5, h6, h7, h8, h9⟩ := forEach_flushBank (r := r0)
      (bs := banksAscending r.st.cfg) List.nodup_range (fun b hb => by simpa [banksAscending, hr0] using hb)
      h hs rfl (fun b _ => hm b)
    refine ⟨x, r', ?_, hf0.trans h3, h4, ?_, ?_, ?_, ?_, ?_⟩
    · simp only [flushStep, ha, if_true, clockEnable_ok h, Res.bind_ok]
      exact h1
    · rw [h5]; simp [ha, hr0]
    · intro b hd
      exact (MayRead_congr hf0.cfg (hdata0 b) (hdir0 b)).1 (h6 b (hmem b hd) hd)
    · intro b
      rw [h7 b, hwc0, hdata0]
      by_cases hd : (r.st.wcOf b).dirty = true <;> simp [hd, hmem b]
    · intro b
      rw [h8 b, hwc0]
      by_cases hd : (r.st.wcOf b).dirty = true <;> simp [hd, hmem b]
    · rw [h9, ha]
      simp [hr0]
      rfl
  · have hno : ∀ b, (r.st.wcOf b).dirty = false := by
      intro b
      by_contra hd
      have hd' : (r.st.wcOf b).dirty = true := by simpa using hd
      exact ha (List.any_eq_true.2 ⟨b, hmem b hd', hd'⟩)
    refine ⟨fun _ => 0, r, ?_, DevFrame.refl _, rfl, ?_, ?_, ?_, ?_, ?_⟩ <;> simp [flushStep, ha, hno]

/-- Parts over two lists one after the other, where those over the first complete. -/
theorem forEach_append {α : Type} {xs ys : List α} {f : α → Run → Res Unit} {r r' : Run}
    (h : forEach xs f r = .ok () r') : forEach (xs ++ ys) f r = forEach ys f r' := by
  induction xs generalizing r with
  | nil => cases h; rfl
  | cons x xs ih =>
    simp only [forEach, List.cons_append] at h ⊢
    cases hx : f x r with
    | ok a r1 => rw [hx] at h; exact ih h
    | raised u => rw [hx] at h; cases h

/-- `flushStep()` (R138) where bank `b` is the first with a mixed dirty entry: the clock gate and the dirty
banks before `b`, in ascending order, and then the fault. -/
theorem flushStep_mixed {r : Run} (h : r.st.cfg.wellFormed = true) (hs : r.st.Sized) {b : Nat}
    (hb : b < r.st.cfg.numBanks) (hd : (r.st.wcOf b).dirty = true) (hx : (r.st.wcOf b).mixed = true)
    (hm : ∀ c < b, (r.st.wcOf c).dirty = true → (r.st.wcOf c).mixed = false) :
    ∃ (x : Nat → Word) (t : State), flushStep r = .raised (raise .mixedPolarity (BitVec.ofNat 64 b) t) ∧
      DevFrame r.st t ∧ t.dir = r.st.dir ∧ t.clk = gateField r.st.clk (clkGateWord r.st.cfg) ∧
      (∀ c < b, (r.st.wcOf c).dirty = true → r.st.MayRead c (x c)) ∧
      (∀ c, t.dataOf c =
        if c < b ∧ (r.st.wcOf c).dirty = true then (r.st.wcOf c).apply (x c) else r.st.dataOf c) ∧
      (∀ c, t.wcOf c = if c < b ∧ (r.st.wcOf c).dirty = true then WcEntry.clean else r.st.wcOf c) ∧
      t.trace = r.st.trace ++
        gateEvent r.st.cfg :: ((List.range b).filter fun c => (r.st.wcOf c).dirty).flatMap
          (bankEvents r.st.cfg r.st.wcOf x) := by
  have ha : anyDirty r.st = true :=
    List.any_eq_true.2 ⟨b, by simpa [banksAscending] using hb, hd⟩
  set r0 : Run := ⟨emit (gateEvent r.st.cfg) (setClk (clkGateWord r.st.cfg) r.st), true⟩ with hr0
  have hf0 : DevFrame r.st r0.st := (setClk_frame _ _).trans (emit_frame _ _)
  obtain ⟨x, r', h1, -, h3, h4, h5, h6, h7, h8, h9⟩ := forEach_flushBank (r := r0) (bs := List.range b)
    List.nodup_range (fun c hc => (List.mem_range.1 hc).trans hb) h hs rfl
    (fun c hc => hm c (List.mem_range.1 hc))
  simp only [List.mem_range] at h6 h7 h8
  have hw : r'.st.wcOf b = r.st.wcOf b := by rw [h8 b]; simp only [Nat.lt_irrefl, false_and, if_false]; rfl
  have hsplit : banksAscending r0.st.cfg =
      List.range b ++ b :: (List.range (r.st.cfg.numBanks - b - 1)).map (b + 1 + ·) := by
    have hn : r0.st.cfg.numBanks = b + 1 + (r.st.cfg.numBanks - b - 1) := by
      show r.st.cfg.numBanks = _
      omega
    rw [banksAscending, hn, List.range_add, List.range_succ, List.append_assoc]
    rfl
  refine ⟨x, r'.st, ?_, hf0.trans h3, h4, h5, h6, h7, h8, ?_⟩
  · simp only [flushStep, ha, if_true, clockEnable_ok h, Res.bind_ok]
    rw [← hr0, hsplit, forEach_append h1]
    simp only [forEach, flushBank, hw, hd, hx, Bool.not_true, Bool.false_eq_true, if_false, if_true, Res.bind]
  · rw [h9]
    simp only [hr0, emit_trace, setClk_trace, List.append_assoc, List.singleton_append]
    rfl

/-- `written` is what an entry of that polarity applies (R138). -/
theorem apply_eq_written (p : Word) (pol : Polarity) (d m : Bool) (x : Word) :
    (WcEntry.mk p pol d m).apply x = written pol p x := by
  cases pol <;> rfl

/-- The body of a SET_BITS or CLEAR_BITS that is not short-circuited, between commands (R134, R135). -/
theorem applyBits_ok {r : Run} (h : r.st.cfg.wellFormed = true) (hs : r.st.Sized) (hq : r.st.Quiet)
    {m : Word} {pol : Polarity} (hm : r.st.memo ≠ some ⟨m, pol⟩) :
    ∃ x r', applyBits m pol r = .ok () r' ∧
      r'.st = { r.st with data := r'.st.data, clk := r'.st.clk, memo := some ⟨m, pol⟩,
                          trace := r'.st.trace, time := r'.st.time, env := r'.st.env } ∧
      r'.st.data.length = r.st.data.length ∧ r.st.time ≤ r'.st.time ∧
      r'.st.clk = (if affected r.st.cfg m = [] then r.st.clk
        else gateField r.st.clk (clkGateWord r.st.cfg)) ∧
      (∀ b, perBank r.st.cfg m b ≠ 0#32 → r.st.MayRead b (x b)) ∧
      (∀ b, r'.st.dataOf b =
        if perBank r.st.cfg m b = 0#32 then r.st.dataOf b else written pol (perBank r.st.cfg m b) (x b)) ∧
      r'.st.trace = r.st.trace ++ bitsEvents r.st.cfg m pol x := by
  set r0 : Run := { r with st := stage m pol r.st } with hr0
  have hwc0 : ∀ b, r0.st.wcOf b =
      if perBank r.st.cfg m b = 0#32 then WcEntry.clean else ⟨perBank r.st.cfg m b, pol, true, false⟩ := by
    intro b
    rw [hr0, stage_wcOf h hs, wcOf_quiet hq]
    simp [WcEntry.stage, WcEntry.clean]
  have hdirty : ∀ b, (r0.st.wcOf b).dirty = decide (perBank r.st.cfg m b ≠ 0#32) := by
    intro b
    rw [hwc0]
    by_cases hp : perBank r.st.cfg m b = 0#32 <;> simp [hp, WcEntry.clean]
  have hs0 : r0.st.Sized := by simpa [State.Sized, hr0] using hs
  obtain ⟨x, r', h1, h2, h3, h4, h5, h6, h7, h8⟩ := flushStep_ok (r := r0) h hs0 (by
    intro b _
    rw [hwc0]
    by_cases hp : perBank r.st.cfg m b = 0#32 <;> simp [hp, WcEntry.clean])
  have hany : anyDirty r0.st = decide (affected r.st.cfg m ≠ []) := by
    rw [Bool.eq_iff_iff, decide_eq_true_eq, anyDirty, List.any_eq_true, affected, Ne,
      List.filter_eq_nil_iff]
    simp only [hdirty]
    push Not
    rfl
  have hclean : ∀ b, r'.st.wcOf b = WcEntry.clean := by
    intro b
    rw [h7, hwc0]
    by_cases hp : perBank r.st.cfg m b = 0#32 <;> simp [hp, WcEntry.clean]
  have hwc : r'.st.wc = r.st.wc := by
    refine wc_eq_of_clean hq ?_ hclean
    rw [h2.wcLen]; simp [hr0]
  refine ⟨x, { r' with st := setMemo m pol r'.st }, ?_, ?_, ?_, ?_, ?_, ?_, ?_, ?_⟩
  · simp only [applyBits, hm, if_false]
    rw [h1]
    rfl
  · have := h2.eq
    apply State.ext <;> first | rfl | skip
    · exact h2.cfg
    · exact h2.program
    · exact h2.position
    · exact h2.result
    · exact h2.fault
    · exact h2.faultInfo
    · exact h2.mapped
    · exact h2.outputs
    · exact h2.inputs
    · exact h2.reserved
    · exact hwc
    · exact h2.timerInit
    · exact h2.detected
    · exact h2.active
    · exact h2.counterOk
    · exact h2.pulser
    · exact h3
    · exact h2.phase0
  · exact h2.dataLen
  · exact h2.time
  · rw [setMemo_clk, h4, hany]
    by_cases ha : affected r.st.cfg m = [] <;> simp [ha, hr0]
  · intro b hp
    exact h5 b (by rw [hdirty]; simpa using hp)
  · intro b
    have := h6 b
    rw [hdirty] at this
    simp only [State.dataOf, setMemo_data] at this ⊢
    rw [this]
    by_cases hp : perBank r.st.cfg m b = 0#32
    · simp [hp, hr0]
    · simp only [hp, ne_eq, not_false_eq_true, decide_true, if_true, if_false]
      rw [hwc0, if_neg hp, apply_eq_written]
  · have hf : (banksAscending r.st.cfg).filter (fun b => (r0.st.wcOf b).dirty) = affected r.st.cfg m := by
      simp only [hdirty, affected]
    rw [setMemo_trace, h8, hany, bitsEvents]
    by_cases ha : affected r.st.cfg m = []
    · simp [ha, hr0]
    · simp only [ha, ne_eq, not_false_eq_true, decide_true, if_true, if_false]
      congr 1
      congr 1
      rw [← hf]
      apply List.flatMap_congr
      intro b hb
      have hp : perBank r.st.cfg m b ≠ 0#32 := by
        have := (List.mem_filter.1 hb).2
        rw [hdirty] at this
        simpa using this
      simp only [bankEvents]
      rw [hwc0, if_neg hp, apply_eq_written]
      rfl

/-- Applying a pair twice is applying it once (R138). -/
@[simp] theorem written_written (pol : Polarity) (p x : Word) :
    written pol p (written pol p x) = written pol p x := by
  cases pol
  · simp only [written, BitVec.or_assoc, BitVec.or_self]
  · simp only [written, BitVec.and_assoc, BitVec.and_self]

@[simp] theorem written_zero (pol : Polarity) (x : Word) : written pol 0#32 x = x := by
  cases pol
  · simp [written]
  · simp only [written, BitVec.not_zero, BitVec.and_allOnes]

/-- The body of a SET_BITS or CLEAR_BITS between commands, the memo's pair included (R134, R135, R136). -/
theorem applyBits_any {s : State} (h : s.cfg.wellFormed = true) (hs : s.Sized) (hq : s.Quiet) (m : Word)
    (pol : Polarity) :
    ∃ r', applyBits m pol ⟨s, false⟩ = .ok () r' ∧
      r'.st = { s with data := r'.st.data, clk := r'.st.clk, memo := some ⟨m, pol⟩,
                       trace := r'.st.trace, time := r'.st.time, env := r'.st.env } ∧
      r'.st.data.length = s.data.length := by
  by_cases hm : s.memo = some ⟨m, pol⟩
  · refine ⟨⟨s, false⟩, by simp [applyBits, hm], ?_, rfl⟩
    simp only
    rw [← hm]
  · obtain ⟨x, r', h1, h2, h3, -⟩ := applyBits_ok (r := ⟨s, false⟩) h hs hq hm
    exact ⟨r', h1, h2, h3⟩

/-- A clock gate written before a set or clear changes nothing of what it does: it writes the gate itself
before its first bank access (R138, R250). -/
theorem applyBits_gated {s : State} (h : s.cfg.wellFormed = true) (m : Word) (pol : Polarity) (g : Bool) :
    (applyBits m pol ⟨s, g⟩).final = (applyBits m pol ⟨s, false⟩).final := by
  by_cases hm : s.memo = some ⟨m, pol⟩
  · simp [applyBits, hm]
  · simp only [applyBits, hm, if_false]
    by_cases ha : anyDirty (stage m pol s) = true
    · have e1 := clockEnable_ok (r := ⟨stage m pol s, g⟩) h
      have e2 := clockEnable_ok (r := ⟨stage m pol s, false⟩) h
      simp only [flushStep, ha, if_true, e1, e2]
    · simp [flushStep, ha]

end Sys2Proof.Machine
end

