-- ==== Sys2Proof/Laws/Claim.lean ====
section
/-! SUPPORT. Direction programming and claims (R130), and the bulk read (R133): what each does once it has
run. -/

namespace Sys2Proof.Machine

theorem programDir_zero (dirbit : Bool) (d : Word) : programDir dirbit d 0#32 = d := by
  cases dirbit
  · simp only [programDir, Bool.false_eq_true, if_false, BitVec.not_zero, BitVec.and_allOnes]
  · simp [programDir]

theorem programDir_or (dirbit : Bool) (d p q : Word) :
    programDir dirbit (programDir dirbit d p) q = programDir dirbit d (p ||| q) := by
  cases dirbit <;> simp only [programDir, if_true, if_false, Bool.false_eq_true]
  · rw [BitVec.and_assoc, BitVec.not_or]
  · rw [BitVec.or_assoc]

/-- The physical bits of the pairs of one bank (R124). -/
def pairBits (ps : List (Nat × Nat)) (b : Nat) : Word :=
  orAll ((ps.filter fun p => p.1 == b).map fun p => bit p.2)

/-- One line's direction programming once the clock gate is written (R130). -/
theorem programLine_ok {r : Run} (h : r.st.cfg.wellFormed = true) (hg : r.gated = true) (dirbit : Bool)
    {p : Nat × Nat} (hp : p.1 < r.st.cfg.numBanks) :
    ∃ r', programLine dirbit p r = .ok () r' ∧ r'.gated = true ∧ DevFrame r.st r'.st ∧
      r'.st.data = r.st.data ∧ r'.st.wc = r.st.wc ∧ r'.st.clk = r.st.clk ∧
      r'.st.dir = r.st.dir.set p.1 (programDir dirbit (r.st.dirOf p.1) (bit p.2)) ∧
      r'.st.trace = r.st.trace ++
        [.regRead (r.st.cfg.bankBase p.1 + 4) (r.st.dirOf p.1),
         .regWrite (r.st.cfg.bankBase p.1 + 4) (programDir dirbit (r.st.dirOf p.1) (bit p.2))] := by
  have hread := devRead_bank h hp hg (Nat.le_refl 1)
  set r1 : Run := ⟨emit (.regRead (r.st.cfg.bankBase p.1 + 4 * 1) (regValue (.bank p.1) 1 r.st))
    (setEnv (regReadEnv (.bank p.1) 1 r.st) r.st), true⟩ with hr1
  have hwrite := devWrite_bank (r := r1) (by simpa [hr1] using h) (b := p.1) (by simpa [hr1] using hp) rfl
    (Nat.le_refl 1) (programDir dirbit (r.st.dirOf p.1) (bit p.2))
  refine ⟨⟨emit (.regWrite (r1.st.cfg.bankBase p.1 + 4 * 1) (programDir dirbit (r.st.dirOf p.1) (bit p.2)))
      (regWrite (.bank p.1) 1 (programDir dirbit (r.st.dirOf p.1) (bit p.2)) r1.st), true⟩, ?_, ?_, ?_, ?_, ?_,
      ?_, ?_, ?_⟩
  · simp only [programLine, dirIdx_eq]
    rw [hread]
    simp only [Res.bind_ok, regValue_dir]
    exact hwrite
  · rfl
  · refine DevFrame.trans ?_ (emit_frame _ _)
    refine DevFrame.trans ?_ (setDir_frame _ _ _)
    exact (setEnv_frame _ _).trans (emit_frame _ _)
  · simp [hr1, regWrite]
  · simp [hr1, regWrite]
  · simp [hr1, regWrite]
  · simp [hr1, regWrite]
  · simp [hr1, regWrite]

/-- Direction programming of pairs one after another (R130). -/
theorem forEach_programLine (dirbit : Bool) {ps : List (Nat × Nat)} {r : Run}
    (hlt : ∀ p ∈ ps, p.1 < r.st.cfg.numBanks) (h : r.st.cfg.wellFormed = true) (hs : r.st.Sized)
    (hg : r.gated = true) :
    ∃ r', forEach ps (programLine dirbit) r = .ok () r' ∧ r'.gated = true ∧ DevFrame r.st r'.st ∧
      r'.st.data = r.st.data ∧ r'.st.wc = r.st.wc ∧ r'.st.clk = r.st.clk ∧
      (∀ b, r'.st.dirOf b = programDir dirbit (r.st.dirOf b) (pairBits ps b)) ∧
      r'.st.trace = r.st.trace ++ dirEvents r.st.cfg dirbit r.st.dirOf ps := by
  induction ps generalizing r with
  | nil =>
    exact ⟨r, rfl, hg, DevFrame.refl _, rfl, rfl, rfl, by simp [pairBits, programDir_zero], by simp [dirEvents]⟩
  | cons p ps ih =>
    obtain ⟨r1, g1, g2, g3, g4, g5, g6, g7, g8⟩ := programLine_ok h hg dirbit (hlt p List.mem_cons_self)
    have hs1 : r1.st.Sized := by
      simp only [State.Sized, g3.wcLen, g3.dataLen, g3.dirLen, g3.cfg]; exact hs
    obtain ⟨r', h1, h2, h3, h4, h5, h6, h7, h8⟩ := ih (r := r1)
      (fun q hq => by rw [g3.cfg]; exact hlt q (List.mem_cons_of_mem _ hq)) (by rw [g3.cfg]; exact h) hs1 g2
    have hpl : p.1 < r.st.dir.length := by rw [hs.2.2]; exact hlt p List.mem_cons_self
    have hdir1 : ∀ b, r1.st.dirOf b =
        if b = p.1 then programDir dirbit (r.st.dirOf p.1) (bit p.2) else r.st.dirOf b := by
      intro b
      by_cases hb : b = p.1
      · subst hb
        simp only [State.dirOf, g7, getD_set_eq _ _ _ _ hpl, if_true]
      · simp only [State.dirOf, g7, getD_set_ne _ _ _ (Ne.symm hb), hb, if_false]
    refine ⟨r', ?_, h2, g3.trans h3, h4.trans g4, h5.trans g5, h6.trans g6, ?_, ?_⟩
    · simp only [forEach, g1, Res.bind_ok, h1]
    · intro b
      rw [h7 b, hdir1 b]
      by_cases hb : b = p.1
      · subst hb
        simp only [if_true, programDir_or]
        simp [pairBits]
      · have hb' : (p.1 == b) = false := by simpa using Ne.symm hb
        simp [hb, hb', pairBits]
    · rw [h8, g8, List.append_assoc]
      congr 1
      simp only [dirEvents, List.cons_append, List.nil_append, g3.cfg]
      congr 2
      congr 1
      funext b
      exact hdir1 b

/-- `claim(req, dirbit)` (R130). -/
theorem claim_ok {r : Run} (h : r.st.cfg.wellFormed = true) (hs : r.st.Sized) (req : Word) (dirbit : Bool) :
    ∃ r', claim req dirbit r = .ok () r' ∧
      r'.st = { r.st with result := some (r.st.accepted req), dir := r'.st.dir, clk := r'.st.clk,
                          trace := r'.st.trace, time := r'.st.time, env := r'.st.env } ∧
      r'.st.dir.length = r.st.dir.length ∧ r.st.time ≤ r'.st.time ∧
      r'.st.clk = (if resolve r.st.cfg (r.st.accepted req) = [] then r.st.clk
        else gateField r.st.clk (clkGateWord r.st.cfg)) ∧
      (∀ b, r'.st.dirOf b =
        programDir dirbit (r.st.dirOf b) (perBank r.st.cfg (r.st.accepted req) b)) ∧
      r'.st.trace = r.st.trace ++ claimEvents r.st.cfg dirbit r.st.dirOf (r.st.accepted req) := by
  set acc := r.st.accepted req with hacc
  by_cases hn : resolve r.st.cfg acc = []
  · refine ⟨{ r with st := setResult acc r.st }, ?_, ?_, rfl, Nat.le_refl _, ?_, ?_, ?_⟩
    · simp only [claim, ← hacc, hn, if_true, Res.bind_ok]
    · rfl
    · simp [hn]
    · intro b
      have hz : perBank r.st.cfg acc b = 0#32 := perBank_eq_zero (by simp [hn])
      rw [hz, programDir_zero]
      rfl
    · simp [claimEvents, hn]
  · set r0 : Run := ⟨emit (gateEvent r.st.cfg) (setClk (clkGateWord r.st.cfg) r.st), true⟩ with hr0
    have hf0 : DevFrame r.st r0.st := (setClk_frame _ _).trans (emit_frame _ _)
    have hlt : ∀ p ∈ resolve r.st.cfg acc, p.1 < r0.st.cfg.numBanks := by
      intro p hp
      obtain ⟨l, hl, -, rfl⟩ := mem_resolve.1 hp
      exact (Cfg.line_range h hl).2.1
    obtain ⟨r', h1, h2, h3, h4, h5, h6, h7, h8⟩ := forEach_programLine dirbit (r := r0) hlt h hs rfl
    have hf := hf0.trans h3
    refine ⟨{ r' with st := setResult acc r'.st }, ?_, ?_, hf.dirLen, hf.time, ?_, ?_, ?_⟩
    · simp only [claim, ← hacc, hn, if_false, clockEnable_ok h, Res.bind_ok]
      rw [← hr0, h1]
      rfl
    · exact State.ext hf.cfg hf.program hf.position rfl hf.fault hf.faultInfo hf.mapped hf.outputs hf.inputs
        hf.reserved h5 hf.memo hf.timerInit hf.detected hf.active hf.counterOk hf.pulser h4 rfl rfl rfl hf.phase0
        rfl rfl
    · simp only [setResult_clk, h6, hn, if_false]; rfl
    · intro b; exact h7 b
    · rw [setResult_trace, h8, claimEvents, if_neg hn]
      simp [hr0]
      rfl

/-- A bit of what READ_ALL aggregates: that of the line with this virtual bit, where its bank's read gave its
physical bit (R125, R133). -/
theorem getLsbD_readAllValue {cfg : Cfg} (h : cfg.wellFormed = true) (x : Nat → Word) {k : Nat} (hk : k < 32) :
    (readAllValue cfg x).getLsbD k = true ↔
      ∃ l ∈ cfg.lineMap, l.vbit = k ∧ (x l.bank).getLsbD l.pbit = true := by
  simp only [readAllValue, getLsbD_orAll, List.any_map, List.any_eq_true, Function.comp, getLsbD_toVirtual hk]
  constructor
  · rintro ⟨b, -, l, hl, rfl, hx, hv⟩
    exact ⟨l, hl, hv, hx⟩
  · rintro ⟨l, hl, hv, hx⟩
    refine ⟨l.bank, ?_, l, hl, rfl, hx, hv⟩
    have hd : (defined cfg).getLsbD l.vbit = true := (getLsbD_defined (hv ▸ hk)).2 ⟨l, hl, rfl⟩
    have hp := perBank_ne_zero h (mem_resolve.2 ⟨l, hl, hd, rfl⟩)
    simpa [affected, banksAscending] using ⟨(Cfg.line_range h hl).2.1, hp⟩

/-- The reads of READ_ALL over banks one after another (R133). -/
theorem readBanks_ok {bs : List Nat} (hn : bs.Nodup) {r : Run} (hlt : ∀ b ∈ bs, b < r.st.cfg.numBanks)
    (h : r.st.cfg.wellFormed = true) (hg : r.gated = true) (v : Word) :
    ∃ (x : Nat → Word) (r' : Run), readBanks bs v r =
        .ok (v ||| orAll ((bs.filter fun b => perBank r.st.cfg (defined r.st.cfg) b ≠ 0#32).map fun b =>
          toVirtual r.st.cfg b (x b))) r' ∧
      r'.st = { r.st with trace := r'.st.trace, time := r'.st.time, env := r'.st.env } ∧
      r.st.time ≤ r'.st.time ∧
      (∀ b ∈ bs, perBank r.st.cfg (defined r.st.cfg) b ≠ 0#32 → r.st.MayRead b (x b)) ∧
      r'.st.trace = r.st.trace ++
        (bs.filter fun b => perBank r.st.cfg (defined r.st.cfg) b ≠ 0#32).map fun b =>
          .regRead (r.st.cfg.bankBase b) (x b) := by
  induction bs generalizing r v with
  | nil => exact ⟨fun _ => 0#32, r, by simp [readBanks], rfl, Nat.le_refl _, by simp, by simp⟩
  | cons c bs ih =>
    have hcn : c ∉ bs := (List.nodup_cons.1 hn).1
    have hlt' : ∀ b ∈ bs, b < r.st.cfg.numBanks := fun b hb => hlt b (List.mem_cons_of_mem _ hb)
    by_cases hp : perBank r.st.cfg (defined r.st.cfg) c = 0#32
    · obtain ⟨x, r', h1, h2, h3, h4, h5⟩ := ih (List.nodup_cons.1 hn).2 hlt' h hg v
      refine ⟨x, r', ?_, h2, h3, ?_, ?_⟩
      · simp [readBanks, hp, h1]
      · intro b hb hpb
        rcases List.mem_cons.1 hb with rfl | hb
        · exact absurd hp hpb
        · exact h4 b hb hpb
      · simp [h5, hp]
    · have hread := devRead_bank h (hlt c List.mem_cons_self) hg (Nat.zero_le 1)
      set x0 := regValue (.bank c) 0 r.st with hx0
      set r1 : Run := ⟨emit (.regRead (r.st.cfg.bankBase c + 4 * 0) x0)
        (setEnv (regReadEnv (.bank c) 0 r.st) r.st), true⟩ with hr1
      have hf1 : DevFrame r.st r1.st := (setEnv_frame _ _).trans (emit_frame _ _)
      obtain ⟨x, r', h1, h2, h3, h4, h5⟩ := ih (r := r1) (List.nodup_cons.1 hn).2 hlt' h rfl
        (v ||| toVirtual r1.st.cfg c x0)
      have hx : ∀ b ∈ bs, (if b = c then x0 else x b) = x b := by
        intro b hb
        rw [if_neg fun hbc : b = c => hcn (hbc ▸ hb)]
      refine ⟨fun b => if b = c then x0 else x b, r', ?_, ?_, hf1.time.trans h3, ?_, ?_⟩
      · simp only [readBanks, ne_eq, hp, not_false_eq_true, if_true, dataIdx_eq]
        rw [hread]
        simp only [Res.bind_ok]
        rw [h1, List.filter_cons, if_pos (by simpa using hp), List.map_cons, orAll_cons, BitVec.or_assoc]
        simp only [if_true]
        congr 3
        apply congrArg
        apply List.map_congr_left
        intro b hb
        rw [hx b (List.mem_filter.1 hb).1]
        rfl
      · rw [h2]; rfl
      · intro b hb hpb
        by_cases hbc : b = c
        · subst hbc; simpa using regValue_mayRead r.st b
        · have hb' : b ∈ bs := by simpa [hbc] using hb
          simp only [hbc, if_false]
          exact (MayRead_congr hf1.cfg rfl rfl).1 (h4 b hb' hpb)
      · rw [h5, List.filter_cons, if_pos (by simpa using hp), List.map_cons]
        simp only [if_true, hr1, emit_trace, setEnv_trace, List.append_assoc, List.cons_append, List.nil_append,
          Nat.mul_zero, Nat.add_zero]
        congr 2
        apply List.map_congr_left
        intro b hb
        rw [hx b (List.mem_filter.1 hb).1]
        rfl

end Sys2Proof.Machine
end

