-- ==== Sys2Proof/Laws/Decode.lean ====
section
/-! SUPPORT. The fields of an assembled command word (R81), a word from its fields, and the zero fields as
the mask and match pairs of R84. -/

namespace Sys2Proof

@[simp] theorem opField_assembleWord (op idx : BitVec 8) (arg : Word) :
    opField (assembleWord op idx arg) = op := by
  apply BitVec.eq_of_getLsbD_eq
  intro k hk
  have h1 : k < 64 := by omega
  have h2 : k < 32 := by omega
  simp [opField, assembleWord, hk, h1, h2]

@[simp] theorem idxField_assembleWord (op idx : BitVec 8) (arg : Word) :
    idxField (assembleWord op idx arg) = idx := by
  apply BitVec.eq_of_getLsbD_eq
  intro k hk
  have h1 : 8 + k < 64 := by omega
  have h2 : 8 + k < 32 := by omega
  simp [idxField, assembleWord, hk, h1, h2]

@[simp] theorem rsvField_assembleWord (op idx : BitVec 8) (arg : Word) :
    rsvField (assembleWord op idx arg) = 0#16 := by
  apply BitVec.eq_of_getLsbD_eq
  intro k hk
  have h1 : 16 + k < 64 := by omega
  have h2 : 16 + k < 32 := by omega
  have h3 : op.getLsbD (16 + k) = false := BitVec.getLsbD_of_ge _ _ (by omega)
  have h4 : idx.getLsbD (16 + k - 8) = false := BitVec.getLsbD_of_ge _ _ (by omega)
  simp [rsvField, assembleWord, h1, h2, h3, h4]

@[simp] theorem argField_assembleWord (op idx : BitVec 8) (arg : Word) :
    argField (assembleWord op idx arg) = arg := by
  apply BitVec.eq_of_getLsbD_eq
  intro k hk
  have h1 : 32 + k < 64 := by omega
  have h3 : op.getLsbD (32 + k) = false := BitVec.getLsbD_of_ge _ _ (by omega)
  have h4 : idx.getLsbD (32 + k - 8) = false := BitVec.getLsbD_of_ge _ _ (by omega)
  simp [argField, assembleWord, hk, h1, h3, h4]

/-- A word whose reserved field is zero is assembled from its other fields (R81). -/
theorem assembleWord_fields {w : CmdWord} (h : rsvField w = 0#16) :
    assembleWord (opField w) (idxField w) (argField w) = w := by
  apply BitVec.eq_of_getLsbD_eq
  intro k hk
  have hr : ∀ j, j < 16 → w.getLsbD (16 + j) = false := by
    intro j hj
    have := congrArg (fun v => v.getLsbD j) h
    simpa [rsvField, hj] using this
  by_cases h1 : k < 8
  · simp [assembleWord, opField, hk, h1, show k < 32 by omega]
  by_cases h2 : k < 16
  · simp [assembleWord, opField, idxField, hk, h1, show k < 32 by omega, show k - 8 < 8 by omega,
      show 8 + (k - 8) = k by omega]
  by_cases h3 : k < 32
  · have := hr (k - 16) (by omega)
    rw [show 16 + (k - 16) = k by omega] at this
    have hz : w[k] = false := by rw [← BitVec.getLsbD_eq_getElem]; exact this
    simp [assembleWord, opField, idxField, hk, h1, h3, hz, show ¬ (k - 8 < 8) by omega]
  · simp [assembleWord, opField, idxField, argField, hk, h1, h3, show ¬ (k - 8 < 8) by omega,
      show k - 32 < 32 by omega, show 32 + (k - 32) = k by omega]

/-- Words with the same four fields are the same word (R81). -/
theorem word_ext {v w : CmdWord} (h1 : opField v = opField w) (h2 : idxField v = idxField w)
    (h3 : rsvField v = rsvField w) (h4 : argField v = argField w) : v = w := by
  have bits : ∀ {n : Nat} {a b : BitVec n}, a = b → ∀ j, a.getLsbD j = b.getLsbD j := by
    intro n a b h j; rw [h]
  apply BitVec.eq_of_getLsbD_eq
  intro k hk
  by_cases g1 : k < 8
  · have := bits h1 k; simpa [opField, g1] using this
  by_cases g2 : k < 16
  · have := bits h2 (k - 8)
    simpa [idxField, show k - 8 < 8 by omega, show 8 + (k - 8) = k by omega] using this
  by_cases g3 : k < 32
  · have := bits h3 (k - 16)
    simpa [rsvField, show k - 16 < 16 by omega, show 16 + (k - 16) = k by omega] using this
  · have := bits h4 (k - 32)
    simpa [argField, show k - 32 < 32 by omega, show 32 + (k - 32) = k by omega] using this

/-- The `mask` and `match` test of R84 is the opcode and the zero fields of the format. -/
theorem mask_iff_fits (f : Format) (w : CmdWord) (op : BitVec 8) :
    w &&& f.maskBits = op.setWidth 64 ↔ opField w = op ∧ f.fits w = true := by
  have and8 : ∀ (a b : CmdWord), opField (a &&& b) = opField a &&& opField b := fun a b => by
    simp [opField, BitVec.extractLsb'_and]
  have andI : ∀ (a b : CmdWord), idxField (a &&& b) = idxField a &&& idxField b := fun a b => by
    simp [idxField, BitVec.extractLsb'_and]
  have andR : ∀ (a b : CmdWord), rsvField (a &&& b) = rsvField a &&& rsvField b := fun a b => by
    simp [rsvField, BitVec.extractLsb'_and]
  have andA : ∀ (a b : CmdWord), argField (a &&& b) = argField a &&& argField b := fun a b => by
    simp [argField, BitVec.extractLsb'_and]
  have hop : op.setWidth 64 = assembleWord op 0#8 0#32 := by simp [assembleWord]
  have hw : w &&& f.maskBits = op.setWidth 64 ↔
      opField w &&& opField f.maskBits = op ∧ idxField w &&& idxField f.maskBits = 0#8 ∧
      rsvField w &&& rsvField f.maskBits = 0#16 ∧ argField w &&& argField f.maskBits = 0#32 := by
    rw [hop]
    constructor
    · intro h
      refine ⟨?_, ?_, ?_, ?_⟩
      · rw [← and8, h, opField_assembleWord]
      · rw [← andI, h, idxField_assembleWord]
      · rw [← andR, h, rsvField_assembleWord]
      · rw [← andA, h, argField_assembleWord]
    · rintro ⟨h1, h2, h3, h4⟩
      apply word_ext
      · rw [and8, h1, opField_assembleWord]
      · rw [andI, h2, idxField_assembleWord]
      · rw [andR, h3, rsvField_assembleWord]
      · rw [andA, h4, argField_assembleWord]
  have e8 : ∀ v : BitVec 8, v &&& 255#8 = v := fun v => BitVec.and_allOnes
  have z8 : ∀ v : BitVec 8, v &&& 0#8 = 0#8 := fun v => BitVec.and_zero
  have e16 : ∀ v : BitVec 16, v &&& 65535#16 = v := fun v => BitVec.and_allOnes
  have e32 : ∀ v : BitVec 32, v &&& 4294967295#32 = v := fun v => BitVec.and_allOnes
  have z32 : ∀ v : BitVec 32, v &&& 0#32 = 0#32 := fun v => BitVec.and_zero
  rw [hw]
  cases f <;>
    simp [Format.maskBits, Format.fits, opField, idxField, rsvField, argField, e8, z8, e16, e32, z32, and_assoc]

/-- The opcode map gives the format of each command (R83, R84). -/
@[simp] theorem formatOf_opcode (c : Instr) : formatOf (opcode c) = some (formatOfCommand c) := by
  cases c <;> rfl

/-- The opcode map and the operand fields give the command back (R82, R83). -/
@[simp] theorem commandOf_fields (c : Instr) : commandOf (opcode c) (idxOf c) (argOf c) = some c := by
  cases c <;> rfl

/-- The command an `op` selects has that `op`, with operands from the fields its format allows (R83, R84). -/
theorem commandOf_some {op idx : BitVec 8} {arg : Word} {i : Instr} (h : commandOf op idx arg = some i) :
    op = opcode i ∧ formatOf op = some (formatOfCommand i) ∧
      match formatOfCommand i with
      | .n => idxOf i = 0#8 ∧ argOf i = 0#32
      | .m => idxOf i = 0#8 ∧ argOf i = arg
      | .im => idxOf i = idx ∧ argOf i = arg
      | .i => idxOf i = idx ∧ argOf i = 0#32 := by
  have hop : op = BitVec.ofNat 8 op.toNat := by simp
  simp only [commandOf] at h
  split at h <;> first
    | cases h; done
    | (rename_i hn; rw [hn] at hop; subst hop; cases h; exact ⟨rfl, rfl, rfl, rfl⟩)

/-- An `op` without a format selects no command, and the other way round (R83, R86). -/
theorem formatOf_eq_none_iff (op idx : BitVec 8) (arg : Word) :
    formatOf op = none ↔ commandOf op idx arg = none := by
  constructor
  · intro h
    cases hc : commandOf op idx arg with
    | none => rfl
    | some i => rw [(commandOf_some hc).2.1] at h; cases h
  · intro h
    simp only [formatOf]
    simp only [commandOf] at h
    split <;> simp_all

end Sys2Proof
end

