-- ==== Sys2Proof/Laws/Kept.lean ====
section
/-! SUPPORT. What the shared operations keep in EVERY state, well formed or not: the fields they never
write, the trace they only extend, the time they never turn back (R38, R37, R170). -/

namespace Sys2Proof.Machine

/-- What device accesses, waiting, mapping and raising never change, and how they move the rest. -/
structure Kept (s t : State) : Prop where
  cfg : t.cfg = s.cfg
  program : t.program = s.program
  position : t.position = s.position
  result : t.result = s.result
  mapped : t.mapped = s.mapped
  outputs : t.outputs = s.outputs
  inputs : t.inputs = s.inputs
  reserved : t.reserved = s.reserved
  memo : t.memo = s.memo
  timerInit : t.timerInit = s.timerInit
  detected : t.detected = s.detected
  active : t.active = s.active
  counterOk : t.counterOk = s.counterOk
  pulser : t.pulser = s.pulser
  phase0 : t.phase0 = s.phase0
  trace : s.trace <+: t.trace
  time : s.time ≤ t.time

theorem Kept.refl (s : State) : Kept s s := by
  constructor <;> rfl

theorem Kept.trans {s t u : State} (h : Kept s t) (k : Kept t u) : Kept s u where
  cfg := k.cfg.trans h.cfg
  program := k.program.trans h.program
  position := k.position.trans h.position
  result := k.result.trans h.result
  mapped := k.mapped.trans h.mapped
  outputs := k.outputs.trans h.outputs
  inputs := k.inputs.trans h.inputs
  reserved := k.reserved.trans h.reserved
  memo := k.memo.trans h.memo
  timerInit := k.timerInit.trans h.timerInit
  detected := k.detected.trans h.detected
  active := k.active.trans h.active
  counterOk := k.counterOk.trans h.counterOk
  pulser := k.pulser.trans h.pulser
  phase0 := k.phase0.trans h.phase0
  trace := h.trace.trans k.trace
  time := h.time.trans k.time

theorem emit_kept (e : Event) (s : State) : Kept s (emit e s) := by
  constructor <;> first | rfl | exact List.prefix_append _ _ | (simp; omega)

theorem raise_kept (c : FaultCode) (i : BitVec 64) (s : State) : Kept s (raise c i s) := by
  constructor <;> rfl

theorem setEnv_kept (e : Env) (s : State) : Kept s (setEnv e s) := by
  constructor <;> rfl

theorem cleanWc_kept (b : Nat) (s : State) : Kept s (cleanWc b s) := by
  constructor <;> rfl

theorem stage_kept (m : Word) (pol : Polarity) (s : State) : Kept s (stage m pol s) := by
  constructor <;> rfl

theorem regWrite_kept (t : Target) (idx : Nat) (v : Word) (s : State) : Kept s (regWrite t idx v s) := by
  cases t <;> simp only [regWrite, setData, setDir, setClk] <;> repeat' split
  all_goals (constructor <;> rfl)

theorem Res.bind_kept {α β : Type} {s : State} {x : Res α} {f : α → Run → Res β} (hx : Kept s x.final)
    (hf : ∀ a r, x = .ok a r → Kept r.st (f a r).final) : Kept s (x.bind f).final := by
  cases x with
  | ok a r => exact hx.trans (hf a r rfl)
  | raised u => exact hx

theorem devRead_kept (w : Window) (idx : Nat) (r : Run) : Kept r.st (devRead w idx r).final := by
  simp only [devRead, raiseAt]
  repeat' split
  · exact raise_kept _ _ _
  · exact raise_kept _ _ _
  · exact raise_kept _ _ _
  · exact (setEnv_kept _ _).trans (emit_kept _ _)

theorem devWrite_kept (w : Window) (idx : Nat) (v : Word) (r : Run) :
    Kept r.st (devWrite w idx v r).final := by
  simp only [devWrite, raiseAt]
  repeat' split
  · exact raise_kept _ _ _
  · exact raise_kept _ _ _
  · exact raise_kept _ _ _
  · exact (regWrite_kept _ _ _ _).trans (emit_kept _ _)

theorem clockEnable_kept (r : Run) : Kept r.st (clockEnable r).final := devWrite_kept _ _ _ _

theorem forEach_kept {α : Type} {f : α → Run → Res Unit} (hf : ∀ a r, Kept r.st (f a r).final)
    (xs : List α) (r : Run) : Kept r.st (forEach xs f r).final := by
  induction xs generalizing r with
  | nil => exact Kept.refl _
  | cons x xs ih => exact Res.bind_kept (hf x r) fun _ r' _ => ih r'

theorem programLine_kept (dirbit : Bool) (p : Nat × Nat) (r : Run) :
    Kept r.st (programLine dirbit p r).final :=
  Res.bind_kept (devRead_kept _ _ _) fun _ _ _ => devWrite_kept _ _ _ _

theorem flushBank_kept (b : Nat) (r : Run) : Kept r.st (flushBank b r).final := by
  simp only [flushBank]
  repeat' split
  · exact Kept.refl _
  · exact raise_kept _ _ _
  · exact Res.bind_kept (devRead_kept _ _ _) fun _ _ _ =>
      Res.bind_kept (devWrite_kept _ _ _ _) fun _ _ _ => cleanWc_kept _ _

theorem flushStep_kept (r : Run) : Kept r.st (flushStep r).final := by
  simp only [flushStep]
  split
  · exact Res.bind_kept (clockEnable_kept _) fun _ r' _ => forEach_kept flushBank_kept _ r'
  · exact Kept.refl _

theorem readBanks_kept (bs : List Nat) (v : Word) (r : Run) : Kept r.st (readBanks bs v r).final := by
  induction bs generalizing v r with
  | nil => exact Kept.refl _
  | cons b bs ih =>
    simp only [readBanks]
    split
    · exact Res.bind_kept (devRead_kept _ _ _) fun _ r' _ => ih _ r'
    · exact ih _ r

theorem busyWait_kept (ns : Nat) (s : State) : Kept s (busyWait ns s) := by
  simp only [busyWait]
  split
  · exact Kept.refl _
  · exact emit_kept _ _

theorem measuredSleep_kept (d : Nat) (s : State) : Kept s (measuredSleep d s) := by
  simp only [measuredSleep]
  split
  · exact ((emit_kept _ _).trans (emit_kept _ _)).trans (emit_kept _ _)
  · exact (((emit_kept _ _).trans (emit_kept _ _)).trans (emit_kept _ _)).trans (busyWait_kept _ _)

theorem sleepBody_kept (d : Nat) (s : State) : Kept s (sleepBody d s) := by
  simp only [sleepBody]
  repeat' split
  · exact measuredSleep_kept _ _
  · exact busyWait_kept _ _
  · exact emit_kept _ _
  · exact busyWait_kept _ _

theorem mapWindow_kept (w : Window) (s : State) : Kept s (mapWindow w s) :=
  (setEnv_kept _ _).trans (emit_kept _ _)

theorem mapAll_kept (ws : List Window) (s : State) : Kept s (mapAll ws s).2 := by
  induction ws generalizing s with
  | nil => exact Kept.refl _
  | cons w ws ih =>
    simp only [mapAll]
    split
    · exact (mapWindow_kept w s).trans (ih _)
    · exact mapWindow_kept w s

/-- A claim changes, beside device state, only RESULT (R130). -/
theorem claim_kept (req : Word) (dirbit : Bool) (r : Run) :
    Kept { r.st with result := (claim req dirbit r).final.result } (claim req dirbit r).final := by
  have key : ∀ x : Res Unit, Kept r.st x.final →
      Kept { r.st with result := (x.bind fun _ r' =>
        Res.ok () { r' with st := setResult (r.st.accepted req) r'.st }).final.result }
        (x.bind fun _ r' => Res.ok () { r' with st := setResult (r.st.accepted req) r'.st }).final := by
    intro x hx
    cases x with
    | ok a r' => exact ⟨hx.cfg, hx.program, hx.position, rfl, hx.mapped, hx.outputs, hx.inputs, hx.reserved,
        hx.memo, hx.timerInit, hx.detected, hx.active, hx.counterOk, hx.pulser, hx.phase0, hx.trace, hx.time⟩
    | raised u => exact ⟨hx.cfg, hx.program, hx.position, rfl, hx.mapped, hx.outputs, hx.inputs, hx.reserved,
        hx.memo, hx.timerInit, hx.detected, hx.active, hx.counterOk, hx.pulser, hx.phase0, hx.trace, hx.time⟩
  simp only [claim]
  apply key
  split
  · exact Kept.refl _
  · exact Res.bind_kept (clockEnable_kept _) fun _ r' _ => forEach_kept (programLine_kept dirbit) _ r'

/-- A set or clear changes, beside device state, only the memo (R134, R135, R136). -/
theorem applyBits_kept (m : Word) (pol : Polarity) (r : Run) :
    Kept { r.st with memo := (applyBits m pol r).final.memo } (applyBits m pol r).final := by
  simp only [applyBits]
  split
  · exact Kept.refl _
  · have hx : Kept r.st (flushStep { r with st := stage m pol r.st }).final :=
      (stage_kept m pol r.st).trans (flushStep_kept { r with st := stage m pol r.st })
    cases hc : flushStep { r with st := stage m pol r.st } with
    | ok a r' =>
      rw [hc] at hx
      exact ⟨hx.cfg, hx.program, hx.position, hx.result, hx.mapped, hx.outputs, hx.inputs, hx.reserved,
        rfl, hx.timerInit, hx.detected, hx.active, hx.counterOk, hx.pulser, hx.phase0, hx.trace, hx.time⟩
    | raised u =>
      rw [hc] at hx
      exact ⟨hx.cfg, hx.program, hx.position, hx.result, hx.mapped, hx.outputs, hx.inputs, hx.reserved,
        rfl, hx.timerInit, hx.detected, hx.active, hx.counterOk, hx.pulser, hx.phase0, hx.trace, hx.time⟩

end Sys2Proof.Machine
end

