-- ==== Sys2Proof/Laws/Waiting.lean ====
section
/-! SUPPORT. Waiting (R170, R176, R178) and mapping (R101, R102): what each does once it has run. -/

namespace Sys2Proof.Machine

/-- Only the trace, the time and the draws have moved, and time has not gone back. -/
structure Waited (s t : State) : Prop where
  eq : t = { s with trace := t.trace, time := t.time, env := t.env }
  time : s.time ≤ t.time

theorem Waited.refl (s : State) : Waited s s := ⟨rfl, Nat.le_refl _⟩

theorem Waited.trans {s t u : State} (h : Waited s t) (k : Waited t u) : Waited s u :=
  ⟨by rw [k.eq, h.eq], h.time.trans k.time⟩

theorem emit_waited (e : Event) (s : State) : Waited s (emit e s) :=
  ⟨rfl, by simp; omega⟩

theorem setEnv_waited (e : Env) (s : State) : Waited s (setEnv e s) := ⟨rfl, Nat.le_refl _⟩

theorem Waited.profile {s t : State} (h : Waited s t) : t.profile = s.profile := by
  rw [h.eq]; rfl

/-- `BusyWait(ns)` (R176). -/
theorem busyWait_waited (ns : Nat) (s : State) : Waited s (busyWait ns s) := by
  simp only [busyWait]
  split
  · exact Waited.refl _
  · exact emit_waited _ _

/-- The events of `BusyWait(ns)` (R175, R176). -/
theorem busyWait_trace (ns : Nat) (s : State) :
    (busyWait ns s).trace = s.trace ++ busyEvents s.profile ns := by
  simp only [busyWait, busyEvents]
  split
  · simp
  · simp [spin, iters]

/-- The counter path for a long duration (R178, R179): the two counter values, the request between
them, the second read no earlier than the request allows (R170), and the shortfall. -/
theorem measuredSleep_spec (d : Nat) (s : State) :
    ∃ T1, s.time + (d - s.profile.jitterNs) ≤ T1 ∧ T1 ≤ (measuredSleep d s).time ∧
      Waited s (measuredSleep d s) ∧
      (measuredSleep d s).trace = s.trace ++
        [.counterRead (BitVec.ofNat 32 (s.phase0 + s.time / 1000)), .osSleep (d - s.profile.jitterNs),
         .counterRead (BitVec.ofNat 32 (s.phase0 + T1 / 1000))] ++
        (if d ≤ (BitVec.ofNat 32 (s.phase0 + T1 / 1000) -
              BitVec.ofNat 32 (s.phase0 + s.time / 1000)).toNat * 1000 then []
         else busyEvents s.profile (d - (BitVec.ofNat 32 (s.phase0 + T1 / 1000) -
              BitVec.ofNat 32 (s.phase0 + s.time / 1000)).toNat * 1000)) := by
  set s2 := osSleep (d - s.profile.jitterNs) (counterRead s) with hs2
  have hw : Waited s (counterRead s2) :=
    ((emit_waited _ _).trans (emit_waited _ _)).trans (emit_waited _ _)
  have htr : (counterRead s2).trace = s.trace ++
      [.counterRead (BitVec.ofNat 32 (s.phase0 + s.time / 1000)), .osSleep (d - s.profile.jitterNs),
       .counterRead (BitVec.ofNat 32 (s.phase0 + s2.time / 1000))] := by
    simp [hs2, counterRead, osSleep, counterValue]
  have hle : s2.time ≤ (counterRead s2).time := (emit_waited _ _).time
  refine ⟨s2.time, ?_, ?_, ?_, ?_⟩
  · simp only [hs2, osSleep, counterRead, emit_time, Event.minDuration]
    omega
  · simp only [measuredSleep]
    split
    · exact hle
    · exact hle.trans (busyWait_waited _ _).time
  · simp only [measuredSleep]
    split
    · exact hw
    · exact hw.trans (busyWait_waited _ _)
  · have hel : elapsedNs (counterValue s) (counterValue s2) =
        (BitVec.ofNat 32 (s.phase0 + s2.time / 1000) -
          BitVec.ofNat 32 (s.phase0 + s.time / 1000)).toNat * 1000 := by
      simp [elapsedNs, counterValue, hs2, osSleep, counterRead]
    simp only [measuredSleep, ← hs2, hel]
    split
    · simp [htr]
    · rw [busyWait_trace, htr, hw.profile]

/-- The body of SLEEP_NANOS (R178): nothing but the trace, the time and the draws moves. -/
theorem sleepBody_waited (d : Nat) (s : State) : Waited s (sleepBody d s) := by
  simp only [sleepBody]
  repeat' split
  · exact (measuredSleep_spec _ _).choose_spec.2.2.1
  · exact busyWait_waited _ _
  · exact emit_waited _ _
  · exact busyWait_waited _ _

/-- A mapping attempt (R101). -/
theorem mapWindow_waited (w : Window) (s : State) : Waited s (mapWindow w s) :=
  (setEnv_waited _ _).trans (emit_waited _ _)

@[simp] theorem mapWindow_trace (w : Window) (s : State) :
    (mapWindow w s).trace = s.trace ++ [mapEvent (mapStatus s) w] := rfl

/-- Mapping windows in order: all of them, or up to and with the first that fails (R102, R103). -/
theorem mapAll_spec (ws : List Window) (s : State) :
    Waited s (mapAll ws s).2 ∧
    (((mapAll ws s).1 = true ∧ (mapAll ws s).2.trace = s.trace ++ ws.map (mapEvent .ok) ∧
        (ws ≠ [] → s.cfg.hostPrivileged = true)) ∨
     ((mapAll ws s).1 = false ∧ ∃ k w, ws[k]? = some w ∧
        (mapAll ws s).2.trace = s.trace ++ (ws.take k).map (mapEvent .ok) ++ [mapEvent .fail w])) := by
  induction ws generalizing s with
  | nil => exact ⟨Waited.refl _, .inl ⟨rfl, by simp [mapAll], by simp⟩⟩
  | cons w ws ih =>
    by_cases hst : mapStatus s = .ok
    · obtain ⟨hw, hcase⟩ := ih (mapWindow w s)
      have he : mapAll (w :: ws) s = mapAll ws (mapWindow w s) := by simp [mapAll, hst]
      rw [he]
      refine ⟨(mapWindow_waited w s).trans hw, ?_⟩
      rcases hcase with ⟨h1, h2, -⟩ | ⟨h1, k, w', hk, h2⟩
      · refine .inl ⟨h1, by rw [h2]; simp [hst], fun _ => ?_⟩
        by_contra hp
        simp [mapStatus, hp] at hst
      · refine .inr ⟨h1, k + 1, w', by simpa using hk, ?_⟩
        rw [h2]
        simp [hst]
    · have he : mapAll (w :: ws) s = (false, mapWindow w s) := by simp [mapAll, hst]
      have hf : mapStatus s = .fail := by
        cases hs : mapStatus s with
        | ok => exact absurd hs hst
        | fail => rfl
      rw [he]
      exact ⟨mapWindow_waited w s, .inr ⟨rfl, 0, w, rfl, by simp [hf]⟩⟩

/-- Without privilege no mapping succeeds (R101, R220). -/
theorem mapStatus_unprivileged {s : State} (h : s.cfg.hostPrivileged = false) : mapStatus s = .fail := by
  simp [mapStatus, h]

/-- With privilege, as many windows are mapped as the environment grants in advance, and the first it
declines ends the table (R101, R102, R103). -/
theorem mapAll_granted {ws : List Window} {s : State} (hp : s.cfg.hostPrivileged = true) {rest : List Status}
    (he : s.env.mapOutcomes = List.replicate ws.length .ok ++ rest) : (mapAll ws s).1 = true := by
  induction ws generalizing s with
  | nil => rfl
  | cons w ws ih =>
    have hst : mapStatus s = .ok := by
      simp [mapStatus, hp, Env.mapOutcome, he, List.replicate_succ]
    simp only [mapAll, hst, if_true]
    apply ih
    · exact hp
    · simp [mapWindow, hp, Env.tookMapOutcome, Env.tookElapse, he, List.replicate_succ]

end Sys2Proof.Machine
end

