-- ==== Sys2Proof/Laws/Gate.lean ====
section
/-! SUPPORT. The clock gate before every bank access (R60, R250), through each shared operation and in
every state. -/

namespace Sys2Proof.Machine

theorem GateFirst_nil (cfg : Cfg) : GateFirst cfg [] := by
  intro pre e post h
  simp at h

/-- One more event after a gate write, or one that is no bank access. -/
theorem GateFirst_snoc {cfg : Cfg} {es : List Event} {e : Event} (h : GateFirst cfg es)
    (he : isBankAccess cfg e = true → gateEvent cfg ∈ es) : GateFirst cfg (es ++ [e]) := by
  intro pre x post hp hx
  rcases List.eq_nil_or_concat post with rfl | ⟨post', y, rfl⟩
  · obtain ⟨rfl, h2⟩ := List.append_inj' hp rfl
    simp only [List.cons.injEq, and_true] at h2
    subst h2
    exact he hx
  · have hp' : es ++ [e] = (pre ++ x :: post') ++ [y] := by simpa using hp
    obtain ⟨h1, -⟩ := List.append_inj' hp' rfl
    exact h pre x post' h1 hx

/-- The events since a trace `tr` have every bank access behind a gate write. -/
def GatedSince (cfg : Cfg) (tr : List Event) (s : State) : Prop :=
  ∃ es, s.trace = tr ++ es ∧ GateFirst cfg es ∧ s.cfg = cfg

/-- As `GatedSince`, and the mark of a gate write in this command tells the truth. -/
def GatedRun (cfg : Cfg) (tr : List Event) (r : Run) : Prop :=
  ∃ es, r.st.trace = tr ++ es ∧ GateFirst cfg es ∧ r.st.cfg = cfg ∧ (r.gated = true → gateEvent cfg ∈ es)

theorem GatedRun.since {cfg : Cfg} {tr : List Event} {r : Run} (h : GatedRun cfg tr r) :
    GatedSince cfg tr r.st := by
  obtain ⟨es, h1, h2, h3, -⟩ := h
  exact ⟨es, h1, h2, h3⟩

/-- The start of a command. -/
theorem GatedRun_start (s : State) : GatedRun s.cfg s.trace ⟨s, false⟩ :=
  ⟨[], by simp, GateFirst_nil _, rfl, by simp⟩

/-- What a part of a command does to the mark, whether it goes on or ends the command. -/
def GatedRes {α : Type} (cfg : Cfg) (tr : List Event) (x : Res α) : Prop :=
  match x with
  | .ok _ r => GatedRun cfg tr r
  | .raised s => GatedSince cfg tr s

theorem GatedRes.final {α : Type} {cfg : Cfg} {tr : List Event} {x : Res α} (h : GatedRes cfg tr x) :
    GatedSince cfg tr x.final := by
  cases x with
  | ok a r => exact GatedRun.since h
  | raised s => exact h

theorem GatedRes.bind {α β : Type} {cfg : Cfg} {tr : List Event} {x : Res α} {f : α → Run → Res β}
    (hx : GatedRes cfg tr x) (hf : ∀ a r, GatedRun cfg tr r → GatedRes cfg tr (f a r)) :
    GatedRes cfg tr (x.bind f) := by
  cases x with
  | ok a r => exact hf a r hx
  | raised s => exact hx

theorem forEach_gated {α : Type} {cfg : Cfg} {tr : List Event} {f : α → Run → Res Unit}
    (hf : ∀ a r, GatedRun cfg tr r → GatedRes cfg tr (f a r)) (xs : List α) {r : Run}
    (h : GatedRun cfg tr r) : GatedRes cfg tr (forEach xs f r) := by
  induction xs generalizing r with
  | nil => exact h
  | cons x xs ih => exact GatedRes.bind (hf x r h) fun _ r' h' => ih h'

theorem raiseAt_gated {α : Type} {cfg : Cfg} {tr : List Event} {r : Run} (h : GatedRun cfg tr r)
    (c : FaultCode) (a : Nat) : GatedRes cfg tr (raiseAt c a r : Res α) := h.since

/-- A read of a bank's register (R61). -/
theorem devRead_gated {cfg : Cfg} {tr : List Event} {r : Run} (h : GatedRun cfg tr r) (b idx : Nat) :
    GatedRes cfg tr (devRead (readWindow r.st.cfg b) idx r) := by
  simp only [devRead]
  split
  · exact raiseAt_gated h _ _
  split
  · exact raiseAt_gated h _ _
  split
  · exact raiseAt_gated h _ _
  rename_i hg
  have hgt : r.gated = true := by simpa [readWindow, Window.isBank] using hg
  obtain ⟨es, h1, h2, h3, h4⟩ := h
  refine ⟨es ++ [Event.regRead _ _], by simp only [emit_trace, setEnv_trace, h1, List.append_assoc]; rfl,
    GateFirst_snoc h2 fun _ => h4 hgt, h3, fun _ => List.mem_append_left _ (h4 hgt)⟩

/-- A write of a bank's register (R62). -/
theorem devWrite_gated {cfg : Cfg} {tr : List Event} {r : Run} (h : GatedRun cfg tr r) (b idx : Nat) (v : Word) :
    GatedRes cfg tr (devWrite (writeWindow r.st.cfg b) idx v r) := by
  simp only [devWrite]
  split
  · exact raiseAt_gated h _ _
  split
  · exact raiseAt_gated h _ _
  split
  · exact raiseAt_gated h _ _
  rename_i hg
  have hgt : r.gated = true := by simpa [writeWindow, Window.isBank] using hg
  have hk := regWrite_kept (writeWindow r.st.cfg b).target idx v r.st
  obtain ⟨es, h1, h2, h3, h4⟩ := h
  have ht : (regWrite (writeWindow r.st.cfg b).target idx v r.st).trace = r.st.trace := by
    simp only [writeWindow, windowAt_target, regWrite]
    repeat' split
    all_goals rfl
  refine ⟨es ++ [Event.regWrite _ _], by simp only [emit_trace, ht, h1, List.append_assoc]; rfl,
    GateFirst_snoc h2 fun _ => h4 hgt,
    hk.cfg.trans h3, fun _ => List.mem_append_left _ (h4 hgt)⟩

/-- The clock-gate write itself (R106). -/
theorem clockEnable_gated {cfg : Cfg} {tr : List Event} {r : Run} (h : GatedRun cfg tr r) :
    GatedRes cfg tr (clockEnable r) := by
  simp only [clockEnable, devWrite]
  split
  · exact raiseAt_gated h _ _
  split
  · exact raiseAt_gated h _ _
  split
  · exact raiseAt_gated h _ _
  obtain ⟨es, h1, h2, h3, h4⟩ := h
  have he : Event.regWrite ((clockWriteWindow r.st.cfg).paddr 0) (clkGateWord r.st.cfg) = gateEvent cfg := by
    simp [clockWriteWindow, gateEvent, h3]
  refine ⟨es ++ [gateEvent cfg], ?_, GateFirst_snoc h2 fun hb => ?_, h3, fun _ => by simp⟩
  · simp only [emit_trace, he, ← List.append_assoc, ← h1]
    rfl
  · simp [gateEvent, isBankAccess] at hb

/-- A change of state that adds no event keeps the mark's truth. -/
theorem GatedRun.setState {cfg : Cfg} {tr : List Event} {r : Run} (h : GatedRun cfg tr r) {s : State}
    (ht : s.trace = r.st.trace) (hc : s.cfg = r.st.cfg) : GatedRun cfg tr { r with st := s } := by
  obtain ⟨es, h1, h2, h3, h4⟩ := h
  exact ⟨es, ht.trans h1, h2, hc.trans h3, h4⟩

theorem programLine_gated {cfg : Cfg} {tr : List Event} {r : Run} (h : GatedRun cfg tr r) (dirbit : Bool)
    (p : Nat × Nat) : GatedRes cfg tr (programLine dirbit p r) := by
  simp only [programLine]
  exact GatedRes.bind (devRead_gated h _ _) fun _ _ h' => devWrite_gated h' _ _ _

/-- A claim (R130). -/
theorem claim_gated {cfg : Cfg} {tr : List Event} {r : Run} (h : GatedRun cfg tr r) (req : Word)
    (dirbit : Bool) : GatedRes cfg tr (claim req dirbit r) := by
  simp only [claim]
  refine GatedRes.bind ?_ fun _ r' h' => h'.setState rfl rfl
  split
  · exact h
  · exact GatedRes.bind (clockEnable_gated h) fun _ r' h' =>
      forEach_gated (fun p r hr => programLine_gated hr dirbit p) _ h'

theorem flushBank_gated {cfg : Cfg} {tr : List Event} {r : Run} (h : GatedRun cfg tr r) (b : Nat) :
    GatedRes cfg tr (flushBank b r) := by
  simp only [flushBank]
  repeat' split
  · exact h
  · exact GatedRun.since h
  · exact GatedRes.bind (devRead_gated h _ _) fun _ _ h' =>
      GatedRes.bind (devWrite_gated h' _ _ _) fun _ _ h'' => h''.setState rfl rfl

/-- A flush (R138). -/
theorem flushStep_gated {cfg : Cfg} {tr : List Event} {r : Run} (h : GatedRun cfg tr r) :
    GatedRes cfg tr (flushStep r) := by
  simp only [flushStep]
  split
  · exact GatedRes.bind (clockEnable_gated h) fun _ r' h' => forEach_gated (fun b r hr => flushBank_gated hr b) _ h'
  · exact h

/-- A set or clear (R134, R135). -/
theorem applyBits_gatedRes {cfg : Cfg} {tr : List Event} {r : Run} (h : GatedRun cfg tr r) (m : Word)
    (pol : Polarity) : GatedRes cfg tr (applyBits m pol r) := by
  simp only [applyBits]
  split
  · exact h
  · exact GatedRes.bind (flushStep_gated (h.setState rfl rfl)) fun _ r' h' => h'.setState rfl rfl

/-- The reads of READ_ALL (R133). -/
theorem readBanks_gated {cfg : Cfg} {tr : List Event} {r : Run} (h : GatedRun cfg tr r) (bs : List Nat)
    (v : Word) : GatedRes cfg tr (readBanks bs v r) := by
  induction bs generalizing v r with
  | nil => exact h
  | cons b bs ih =>
    simp only [readBanks]
    split
    · exact GatedRes.bind (devRead_gated h _ _) fun _ r' h' => ih h' _
    · exact ih h _

/-- Events without a bank access. -/
theorem GateFirst_of_none {cfg : Cfg} {es : List Event} (h : ∀ e ∈ es, isBankAccess cfg e = false) :
    GateFirst cfg es := by
  intro pre e post hp he
  rw [h e (by rw [hp]; simp)] at he
  cases he

theorem busyEvents_noBank (cfg : Cfg) (p : Profile) (n : Nat) :
    ∀ e ∈ busyEvents p n, isBankAccess cfg e = false := by
  intro e he
  simp only [busyEvents] at he
  split at he
  · simp at he
  · simp only [List.mem_singleton] at he
    subst he
    rfl

/-- SLEEP_NANOS accesses no bank (R178). -/
theorem sleepBody_noBank (d : Nat) (s : State) :
    ∃ es, (sleepBody d s).trace = s.trace ++ es ∧ ∀ cfg, ∀ e ∈ es, isBankAccess cfg e = false := by
  simp only [sleepBody]
  repeat' split
  · obtain ⟨T, -, -, -, h⟩ := measuredSleep_spec d s
    refine ⟨_, by rw [h, List.append_assoc], ?_⟩
    intro cfg e he
    simp only [List.cons_append, List.nil_append, List.mem_cons] at he
    rcases he with rfl | rfl | rfl | he
    · rfl
    · rfl
    · rfl
    · split at he
      · simp at he
      · exact busyEvents_noBank _ _ _ e he
  · exact ⟨_, busyWait_trace _ _, fun cfg => busyEvents_noBank _ _ _⟩
  · exact ⟨[.osSleep _], rfl, by simp [isBankAccess]⟩
  · exact ⟨_, busyWait_trace _ _, fun cfg => busyEvents_noBank _ _ _⟩

/-- A wait between bank accesses of one command leaves the mark true (R202). -/
theorem GatedRun.sleep {cfg : Cfg} {tr : List Event} {r : Run} (h : GatedRun cfg tr r) (d : Nat) :
    GatedRun cfg tr { r with st := sleepBody d r.st } := by
  obtain ⟨es, h1, h2, h3, h4⟩ := h
  obtain ⟨es', b1, b2⟩ := sleepBody_noBank d r.st
  have hb := b2 cfg
  refine ⟨es ++ es', by simp only [b1, h1, List.append_assoc], ?_, (sleepBody_kept d r.st).cfg.trans h3,
    fun hg => List.mem_append_left _ (h4 hg)⟩
  intro pre e post hp he
  rw [List.append_eq_append_iff] at hp
  rcases hp with ⟨as, rfl, hs⟩ | ⟨bs, hs, hs'⟩
  · rw [hb e (by rw [hs]; simp)] at he
    cases he
  · cases bs with
    | nil =>
      simp only [List.nil_append] at hs'
      rw [hb e (by rw [← hs']; simp)] at he
      cases he
    | cons b bs =>
      simp only [List.cons_append, List.cons.injEq] at hs'
      obtain ⟨rfl, -⟩ := hs'
      exact h2 pre e bs hs he

end Sys2Proof.Machine
end

