-- ==== Sys2Proof/Laws/PerInstr.lean ====
section
/-! SUPPORT. A statement about every command as syntax, one lemma per constructor: its word satisfies the
mask and match pair of its row (R84), its zero fields are zero and its operands stand in the fields
of R81 where R82 puts them. -/

namespace Sys2Proof.Laws

/-- The word of a command is one its row of the opcode table accepts (R84), with `rsv` zero and the operands
in `idx` and `arg` (R81, R82). -/
def RowAccepts.Statement (i : Instr) : Prop :=
  encode i &&& (formatOfCommand i).maskBits = matchBits i ∧ (formatOfCommand i).fits (encode i) = true ∧
  opField (encode i) = opcode i ∧ idxField (encode i) = idxOf i ∧ rsvField (encode i) = 0#16 ∧
  argField (encode i) = argOf i

/-- A command whose zero fields are zero is accepted by its row. -/
theorem rowAccepts_of_fits {i : Instr} (h : (formatOfCommand i).fits (encode i) = true) :
    RowAccepts.Statement i := by
  refine ⟨(mask_iff_fits _ _ _).2 ⟨?_, h⟩, h, ?_, ?_, ?_, ?_⟩ <;> simp [encode]

theorem RowAccepts.init : RowAccepts.Statement .init := rowAccepts_of_fits (by decide)

theorem RowAccepts.initOutputs (mask : Word) : RowAccepts.Statement (.initOutputs mask) :=
  rowAccepts_of_fits (by simp [Format.fits, formatOfCommand, encode, idxOf])

theorem RowAccepts.requestInputs (mask : Word) : RowAccepts.Statement (.requestInputs mask) :=
  rowAccepts_of_fits (by simp [Format.fits, formatOfCommand, encode, idxOf])

theorem RowAccepts.readAll : RowAccepts.Statement .readAll := rowAccepts_of_fits (by decide)

theorem RowAccepts.setBits (mask : Word) : RowAccepts.Statement (.setBits mask) :=
  rowAccepts_of_fits (by simp [Format.fits, formatOfCommand, encode, idxOf])

theorem RowAccepts.clearBits (mask : Word) : RowAccepts.Statement (.clearBits mask) :=
  rowAccepts_of_fits (by simp [Format.fits, formatOfCommand, encode, idxOf])

theorem RowAccepts.flush : RowAccepts.Statement .flush := rowAccepts_of_fits (by decide)

theorem RowAccepts.timerInit : RowAccepts.Statement .timerInit := rowAccepts_of_fits (by decide)

theorem RowAccepts.sleepNanos (ns : Word) : RowAccepts.Statement (.sleepNanos ns) :=
  rowAccepts_of_fits (by simp [Format.fits, formatOfCommand, encode, idxOf])

theorem RowAccepts.jitterAllowance : RowAccepts.Statement .jitterAllowance := rowAccepts_of_fits (by decide)

theorem RowAccepts.pulserAcquire (count : BitVec 8) (mask : Word) :
    RowAccepts.Statement (.pulserAcquire count mask) :=
  rowAccepts_of_fits (by simp [Format.fits, formatOfCommand, encode])

theorem RowAccepts.pulserSetWidth (idx : BitVec 8) (ns : Word) :
    RowAccepts.Statement (.pulserSetWidth idx ns) :=
  rowAccepts_of_fits (by simp [Format.fits, formatOfCommand, encode])

theorem RowAccepts.sendPulse (idx : BitVec 8) : RowAccepts.Statement (.sendPulse idx) :=
  rowAccepts_of_fits (by simp [Format.fits, formatOfCommand, encode, argOf])

end Sys2Proof.Laws
end

