-- ==== Sys2Proof/Laws/Untouched.lean ====
section
/-! SUPPORT. Which device registers the shared operations leave alone, in every state (R57, R58). -/

namespace Sys2Proof.Machine

/-- A part of a command that keeps `f` of the state keeps it through what follows, if that keeps it. -/
theorem Res.bind_keeps {α β γ : Type} (f : State → γ) {s : State} {x : Res α} {k : α → Run → Res β}
    (hx : f x.final = f s) (hk : ∀ a r, f (k a r).final = f r.st) : f (x.bind k).final = f s := by
  cases x with
  | ok a r => exact (hk a r).trans hx
  | raised u => exact hx

theorem forEach_keeps {α γ : Type} (f : State → γ) {k : α → Run → Res Unit}
    (hk : ∀ a r, f (k a r).final = f r.st) (xs : List α) (r : Run) : f (forEach xs k r).final = f r.st := by
  induction xs generalizing r with
  | nil => rfl
  | cons x xs ih => exact Res.bind_keeps f (hk x r) fun _ r' => ih r'

/-- Reads change no register (R58). -/
theorem devRead_registers (w : Window) (idx : Nat) (r : Run) :
    (devRead w idx r).final.data = r.st.data ∧ (devRead w idx r).final.dir = r.st.dir ∧
    (devRead w idx r).final.clk = r.st.clk ∧ (devRead w idx r).final.wc = r.st.wc := by
  simp only [devRead, raiseAt]
  repeat' split
  all_goals exact ⟨rfl, rfl, rfl, rfl⟩

/-- A write of a bank's direction register changes no data latch (R57). -/
theorem devWrite_dirIdx_data (cfg : Cfg) (b : Nat) (v : Word) (r : Run) :
    (devWrite (writeWindow cfg b) dirIdx v r).final.data = r.st.data := by
  simp only [devWrite, raiseAt]
  repeat' split
  all_goals rfl

/-- A write of a bank's data register changes no direction register (R57). -/
theorem devWrite_dataIdx_dir (cfg : Cfg) (b : Nat) (v : Word) (r : Run) :
    (devWrite (writeWindow cfg b) dataIdx v r).final.dir = r.st.dir := by
  simp only [devWrite, raiseAt]
  repeat' split
  all_goals rfl

theorem clockEnable_data (r : Run) : (clockEnable r).final.data = r.st.data := by
  simp only [clockEnable, devWrite, raiseAt]
  repeat' split
  all_goals rfl

theorem clockEnable_dir (r : Run) : (clockEnable r).final.dir = r.st.dir := by
  simp only [clockEnable, devWrite, raiseAt]
  repeat' split
  all_goals rfl

theorem programLine_data (dirbit : Bool) (p : Nat × Nat) (r : Run) :
    (programLine dirbit p r).final.data = r.st.data :=
  Res.bind_keeps State.data (devRead_registers _ _ _).1 fun _ _ => devWrite_dirIdx_data _ _ _ _

/-- No device write touches a coalescing entry (R29). -/
theorem devWrite_wc (w : Window) (idx : Nat) (v : Word) (r : Run) : (devWrite w idx v r).final.wc = r.st.wc := by
  simp only [devWrite, raiseAt, regWrite]
  repeat' split
  all_goals rfl

/-- A claim changes no coalescing entry (R29, R130). -/
theorem claim_wc (req : Word) (dirbit : Bool) (r : Run) : (claim req dirbit r).final.wc = r.st.wc := by
  simp only [claim]
  refine Res.bind_keeps State.wc ?_ fun _ _ => rfl
  split
  · rfl
  · exact Res.bind_keeps State.wc (devWrite_wc _ _ _ r) fun _ r' =>
      forEach_keeps State.wc (fun _ _ => Res.bind_keeps State.wc (devRead_registers _ _ _).2.2.2
        fun _ _ => devWrite_wc _ _ _ _) _ r'

/-- The bulk read changes no coalescing entry (R29, R133). -/
theorem readBanks_wc (bs : List Nat) (v : Word) (r : Run) : (readBanks bs v r).final.wc = r.st.wc := by
  induction bs generalizing v r with
  | nil => rfl
  | cons b bs ih =>
    simp only [readBanks]
    split
    · exact Res.bind_keeps State.wc (devRead_registers _ _ _).2.2.2 fun _ r' => ih _ r'
    · exact ih _ r

/-- A claim changes no data latch (R130). -/
theorem claim_data (req : Word) (dirbit : Bool) (r : Run) : (claim req dirbit r).final.data = r.st.data := by
  simp only [claim]
  refine Res.bind_keeps State.data ?_ fun _ _ => rfl
  split
  · rfl
  · exact Res.bind_keeps State.data (clockEnable_data r) fun _ r' =>
      forEach_keeps State.data (programLine_data dirbit) _ r'

theorem readBanks_data (bs : List Nat) (v : Word) (r : Run) : (readBanks bs v r).final.data = r.st.data := by
  induction bs generalizing v r with
  | nil => rfl
  | cons b bs ih =>
    simp only [readBanks]
    split
    · exact Res.bind_keeps State.data (devRead_registers _ _ _).1 fun _ r' => ih _ r'
    · exact ih _ r

theorem readBanks_dir (bs : List Nat) (v : Word) (r : Run) : (readBanks bs v r).final.dir = r.st.dir := by
  induction bs generalizing v r with
  | nil => rfl
  | cons b bs ih =>
    simp only [readBanks]
    split
    · exact Res.bind_keeps State.dir (devRead_registers _ _ _).2.1 fun _ r' => ih _ r'
    · exact ih _ r

theorem flushBank_dir (b : Nat) (r : Run) : (flushBank b r).final.dir = r.st.dir := by
  simp only [flushBank]
  repeat' split
  · rfl
  · rfl
  · exact Res.bind_keeps State.dir (devRead_registers _ _ _).2.1 fun _ _ =>
      Res.bind_keeps State.dir (devWrite_dataIdx_dir _ _ _ _) fun _ _ => rfl

/-- A flush changes no direction register (R138). -/
theorem flushStep_dir (r : Run) : (flushStep r).final.dir = r.st.dir := by
  simp only [flushStep]
  split
  · exact Res.bind_keeps State.dir (clockEnable_dir r) fun _ r' => forEach_keeps State.dir flushBank_dir _ r'
  · rfl

/-- A set or clear changes no direction register (R134, R135). -/
theorem applyBits_dir (m : Word) (pol : Polarity) (r : Run) : (applyBits m pol r).final.dir = r.st.dir := by
  simp only [applyBits]
  split
  · rfl
  · exact Res.bind_keeps State.dir (flushStep_dir { r with st := stage m pol r.st }) fun _ _ => rfl

end Sys2Proof.Machine
end

