-- ==== Sys2Proof/Tests/Slice0.lean ====
section
/-! SUPPORT. Small tests with expected results from spec/95_test_vectors.md (each names its vector), and a
witness for the hypotheses of each statement that has some. -/

namespace Sys2Proof.Tests

open Sys2Proof.Machine

/-! Decoding: the words written out from R81, R83 and R88. -/

theorem test_decode_init : decodeTableWord 64 0x0000000000000001 = some .init := by decide
theorem test_decode_init_outputs : decodeTableWord 64 0x0006001000000002 = some (.initOutputs 0x00060010#32) := by
  decide
theorem test_decode_request_inputs :
    decodeTableWord 64 0x0BC68F9000000003 = some (.requestInputs 0x0BC68F90#32) := by decide
theorem test_decode_read_all : decodeTableWord 64 0x0000000000000004 = some .readAll := by decide
theorem test_decode_set_bits : decodeTableWord 64 0x0002000000000005 = some (.setBits 0x00020000#32) := by decide
theorem test_decode_clear_bits : decodeTableWord 64 0x0002000000000006 = some (.clearBits 0x00020000#32) := by
  decide
theorem test_decode_flush : decodeTableWord 64 0x0000000000000007 = some .flush := by decide
theorem test_decode_timer_init : decodeTableWord 64 0x0000000000000010 = some .timerInit := by decide
theorem test_decode_sleep_nanos : decodeTableWord 64 0x0000C35000000011 = some (.sleepNanos 50000#32) := by decide
theorem test_decode_jitter_allowance : decodeTableWord 64 0x0000000000000012 = some .jitterAllowance := by decide
theorem test_decode_pulser_acquire :
    decodeTableWord 64 0xFFFFFFFF0000FF20 = some (.pulserAcquire 255#8 0xFFFFFFFF#32) := by decide
theorem test_decode_pulser_set_width :
    decodeTableWord 64 0x0000008200000121 = some (.pulserSetWidth 1#8 130#32) := by decide
theorem test_decode_send_pulse : decodeTableWord 64 0x0000000000000522 = some (.sendPulse 5#8) := by decide

/-- E-2, E-3, E-5, E-6, E-8, E-11, E-12, E-14. -/
theorem test_decode_illegal :
    [0x0000000000000000#64, 0x0000000000000101#64, 0x0002000000010005#64, 0x0000000000000008#64,
      0x0000000100000022#64, 0x0000000000000104#64, 0x00000000000000FF#64, 0x0000000100000012#64].all
      (fun w => match decode w with | .illegal _ => true | .command _ => false) = true := by decide

/-- R63: the bytes of E-13 in transport. -/
theorem test_transport : bytesOf 0x0000008200000121#64 = [0x21, 0x01, 0x00, 0x00, 0x82, 0x00, 0x00, 0x00] := by
  decide

/-- R88, R89: lines of text of program L3-3 and a pseudo-instruction, with a comment. -/
theorem test_assembler :
    (readLineText "pulser_acquire 0x00040000, 2 ; oe".toList).map (Option.bind · (assembleLine .fixture)) =
      some (some 0x0004000000000220#64) ∧
    (readLineText "set_line clock".toList).map (Option.bind · (assembleLine .fixture)) =
      some (some 0x0002000000000005#64) ∧
    readLineText "set_bits clock".toList = none := by decide

/-! WellFormed: the fixture passes, and each clause of R10 refuses a configuration that breaks it. -/

theorem test_wellFormed_fixture : Cfg.fixture.wellFormed = true ∧ Cfg.fixture.inAddressSpace = true := by decide
theorem test_wellFormed_eight_banks :
    { Cfg.fixture with banks := Cfg.fixture.banks.take 8 }.banksOk = false := by decide
theorem test_wellFormed_bank_unaligned :
    { Cfg.fixture with banks := ⟨"GPIO", 0x20010002⟩ :: Cfg.fixture.banks }.banksOk = false := by decide
theorem test_wellFormed_bank_at_page_end :
    { Cfg.fixture with banks := ⟨"GPIO", 0x20010FFC⟩ :: Cfg.fixture.banks }.banksOk = false := by decide
theorem test_wellFormed_same_base :
    { Cfg.fixture with banks := ⟨"GPIO", 0x10000000⟩ :: Cfg.fixture.banks }.banksOk = false := by decide
theorem test_wellFormed_clk_unaligned : { Cfg.fixture with clkEnOffset := 0x191 }.clkOk = false := by decide
theorem test_wellFormed_line_missing :
    { Cfg.fixture with lineMap := Cfg.fixture.lineMap.drop 1 }.linesOk = false := by decide
theorem test_wellFormed_clock_moved :
    { Cfg.fixture with lineMap := Cfg.fixture.lineMap.map fun (l : Line) =>
        if l.name = LineName.clock then { l with vbit := 16 } else l }.linesOk = false := by decide
theorem test_wellFormed_shared_vbit :
    { Cfg.fixture with lineMap := Cfg.fixture.lineMap.map fun (l : Line) => { l with vbit := 17 } }.linesOk = false := by
  decide
theorem test_wellFormed_shared_pin :
    { Cfg.fixture with lineMap := Cfg.fixture.lineMap.map fun (l : Line) => { l with bank := 8, pbit := 6 } }.linesOk =
      false := by decide
theorem test_wellFormed_vbit_range :
    { Cfg.fixture with lineMap := Cfg.fixture.lineMap.map fun (l : Line) =>
        if l.name = LineName.oe then { l with vbit := 32 } else l }.linesOk = false := by decide
theorem test_wellFormed_reserved : { Cfg.fixture with reservedInit := 2 ^ 32 }.reservedOk = false := by decide
theorem test_wellFormed_no_profile : { Cfg.fixture with profiles := [] }.profilesOk = false := by decide
theorem test_wellFormed_den_zero :
    { Cfg.fixture with profiles := [⟨50, 50, 1, 0, 12000⟩] }.profilesOk = false := by decide
theorem test_wellFormed_detect_range : { Cfg.fixture with detect := [([0x41], 1)] }.profilesOk = false := by decide
theorem test_wellFormed_overhead : { Cfg.fixture with ncOverheadNs := 30001 }.thresholdsOk = false := by decide
theorem test_wellFormed_page_size : { Cfg.fixture with pageSize := 4097 }.pageOk = false ∧
    { Cfg.fixture with pageSize := 4 }.pageOk = false := by decide
theorem test_wellFormed_calibration :
    { Cfg.fixture with pulseCalibration := [(130, 2 ^ 32)] }.calibrationOk = false := by decide
theorem test_inAddressSpace : { Cfg.fixture with paddrWidth := 28 }.inAddressSpace = false := by decide

/-! One step each on small states. -/

/-- `Fresh` of the vectors: INIT done, every latch and direction 0. -/
def fresh : State := { State.reset with mapped := true }

/-- Fresh with TIMER_INIT done (T-1). -/
def timed : State := { fresh with timerInit := true, counterOk := true }

/-- P-2 with the widths of P-7, `DATA[8] = 0x20`. -/
def pulsing : State :=
  { timed with pulser := some ⟨0x00040000#32, 2#8, [some 50000#32, some 130#32]⟩
               data := [0, 0, 0, 0, 0, 0, 0, 0, 0x20] }

/-- A bank's latch or direction alone. -/
def bank8 (v : Word) : List Word := [0, 0, 0, 0, 0, 0, 0, 0, v]

/-- The state after the step that runs the word `w`; the state itself if there is no next state. -/
def after (w : Nat) (s : State) : State :=
  match step (s.withFetchWord 64 w) with
  | .next t => t
  | _ => s

/-- The clock gate of the vectors. -/
def cg : Event := .regWrite 0x20000190 0x01FF0000#32

/-- I-1, W4: the 20 mappings. -/
theorem test_init :
    (after 0x1 { State.reset with env := { Env.free with mapOutcomes := List.replicate 20 .ok } }).mapped = true ∧
    (after 0x1 { State.reset with env := { Env.free with mapOutcomes := List.replicate 20 .ok } }).trace =
      ((List.range 9).flatMap fun b => [.map (0x10000000 + b * 0x10000) 4096 .read .ok,
        .map (0x10000000 + b * 0x10000) 4096 .write .ok]) ++
        [.map 0x20000000 4096 .read .ok, .map 0x20000000 4096 .write .ok] := by decide

/-- I-3. -/
theorem test_init_unprivileged :
    (after 0x1 { State.reset with cfg := { Cfg.fixture with hostPrivileged := false } }).trace =
      [.map 0x10000000 4096 .read .fail] ∧
    (after 0x1 { State.reset with cfg := { Cfg.fixture with hostPrivileged := false } }).result = some 1#32 := by
  decide

/-- W6, its second command. -/
theorem test_init_outputs :
    (after 0x0006001000000002 { fresh with inputs := 0x00040000#32 }).trace =
      [cg, .regRead 0x10080004 0#32, .regWrite 0x10080004 0x40#32, .regRead 0x10080004 0x40#32,
        .regWrite 0x10080004 0xC0#32] ∧
    (after 0x0006001000000002 { fresh with inputs := 0x00040000#32 }).result = some 0x00020010#32 := by decide

/-- C-4. -/
theorem test_init_outputs_undefined_bit :
    (after 0x0000000100000002 fresh).outputs = 1#32 ∧ (after 0x0000000100000002 fresh).trace = [] := by decide

/-- C-9. -/
theorem test_request_inputs :
    (after 0x0002000000000003 { fresh with dir := bank8 0xFFFFFFFF#32 }).trace =
      [cg, .regRead 0x10080004 0xFFFFFFFF#32, .regWrite 0x10080004 0xFFFFFFBF#32] ∧
    (after 0x0002000000000003 { fresh with dir := bank8 0xFFFFFFFF#32 }).inputs = 0x00020000#32 := by decide

/-- RA-4. -/
theorem test_read_all :
    (after 0x4 { fresh with data := [0, 0, 0, 0, 0, 0, 0, 0x2001#32, 0] }).result = some 0x00400400#32 := by decide

/-- RA-5. -/
theorem test_read_all_pins :
    (after 0x4 { fresh with cfg := { Cfg.fixture with dataReadMode := .pinForInputs }, dir := bank8 0x40#32
                            env := { Env.free with pins := [0#32, 0x20#32] } }).trace =
      [cg, .regRead 0x10070000 0#32, .regRead 0x10080000 0x20#32] := by decide

/-- S-5: banks ascending. -/
theorem test_set_bits :
    (after 0x0042000000000005 fresh).trace =
      [cg, .regRead 0x10070000 0#32, .regWrite 0x10070000 1#32, .regRead 0x10080000 0#32,
        .regWrite 0x10080000 0x40#32] := by decide

/-- S-2: a repeat is a memo hit. -/
theorem test_set_bits_memo :
    (after 0x0002000000000005 { fresh with memo := some ⟨0x00020000#32, .set⟩ }).trace = [] := by decide

/-- S-9. -/
theorem test_clear_bits :
    (after 0x0006001000000006 { fresh with data := bank8 0xFFFFFFFF#32 }).trace =
      [cg, .regRead 0x10080000 0xFFFFFFFF#32, .regWrite 0x10080000 0xFFFFFF1F#32] := by decide

/-- S-11 and R138 on an entry left dirty. -/
theorem test_flush :
    (after 0x7 fresh).trace = [] ∧
    (after 0x7 { fresh with wc := [⟨0x5#32, .set, true, false⟩] ++ List.replicate 8 WcEntry.clean }).trace =
      [cg, .regRead 0x10000000 0#32, .regWrite 0x10000000 0x5#32] := by decide

/-- T-1. -/
theorem test_timer_init :
    (after 0x10 { State.reset with env := { Env.free with idFiles := [none], hintOutcomes := [.fail, .ok] } }).trace =
      [.idFileRead none, .osHint .rtThrottle .fail, .osHint .governor .ok] ∧
    (after 0x10 { State.reset with env := { Env.free with idFiles := [none] } }).counterOk = true := by decide

/-- T-3. -/
theorem test_timer_init_unprivileged :
    (after 0x10 { State.reset with cfg := { Cfg.fixture with hostPrivileged := false } }).counterOk = false := by
  decide

/-- T-13: the counter reads 1000, the OS sleeps 39 microseconds, the counter reads 1039. -/
theorem test_sleep_nanos :
    (after 0x0000C35000000011
      { timed with phase0 := 1000, env := { Env.free with elapses := [0, 1000, 0, 0] } }).trace =
      [.counterRead 1000#32, .osSleep 38000, .counterRead 1039#32, .spin 5475] := by decide

/-- T-16 with a jitter allowance of 26000, so that R170 allows its counter values (a request of 38000 does
not fit 24 ticks): across the wrap of the counter. -/
theorem test_sleep_nanos_wrap :
    (after 0x0000C35000000011
      { timed with phase0 := 0xFFFFFFF0, env := { Env.free with elapses := [0, 0, 0, 0] }
                   cfg := { Cfg.fixture with profiles := [⟨50, 50, 1, 2, 26000⟩] } }).trace =
      [.counterRead 0xFFFFFFF0#32, .osSleep 24000, .counterRead 8#32, .spin 12975] := by decide

/-- T-5. -/
theorem test_jitter_allowance : (after 0x12 timed).result = some 12000#32 := by decide

/-- P-2. -/
theorem test_pulser_acquire :
    (after 0x0004000000000220 fresh).pulser = some ⟨0x00040000#32, 2#8, [none, none]⟩ := by decide

/-- P-4. -/
theorem test_pulser_set_width_index :
    (after 0x0000000A00000221 pulsing).fault = 0x05#8 ∧ (after 0x0000000A00000221 pulsing).faultInfo = 2#64 := by
  decide

/-- L3-3 command 7 on two unset entries. -/
theorem test_pulser_set_width :
    (after 0x0000008200000121 { fresh with pulser := some ⟨0x00040000#32, 2#8, [none, none]⟩ }).pulser =
      some ⟨0x00040000#32, 2#8, [none, some 130#32]⟩ := by decide

/-- P-7. -/
theorem test_send_pulse :
    (after 0x22 { pulsing with phase0 := 1000, env := { Env.free with elapses := [0, 0, 0, 0, 1000, 0, 0] } }).trace =
      [cg, .regRead 0x10080000 0x20#32, .regWrite 0x10080000 0#32, .counterRead 1000#32, .osSleep 38000,
        .counterRead 1039#32, .spin 5475, cg, .regRead 0x10080000 0#32, .regWrite 0x10080000 0x20#32] := by decide

/-- P-10: the clear step is a memo hit. -/
theorem test_send_pulse_memo :
    (after 0x122 { pulsing with data := bank8 0#32, memo := some ⟨0x00040000#32, .clear⟩ }).trace =
      [.spin 40, cg, .regRead 0x10080000 0#32, .regWrite 0x10080000 0x20#32] := by decide

/-- E-15, E-16, F-5. -/
theorem test_illegal :
    (after 0x0 fresh).fault = 0x01#8 ∧ (after 0x0 fresh).faultInfo = 0#64 ∧
    (after 0x0002000000010005 State.reset).faultInfo = 0x0002000000010005#64 ∧
    (after 0x9 State.reset).fault = 0x01#8 := by decide

/-- F-1, F-2, F-3, P-5. -/
theorem test_fault_order :
    (after 0x22 State.reset).fault = 0x02#8 ∧ (after 0x22 fresh).fault = 0x03#8 ∧
    (after 0x22 timed).fault = 0x04#8 ∧
    (after 0x22 { timed with pulser := some ⟨0x00040000#32, 2#8, [none, none]⟩ }).fault = 0x06#8 := by decide

/-- F-4: a faulted block takes no step. -/
theorem test_faulted : step ({ fresh with fault := 0x04#8 }.withFetchWord 64 0x1) = .fault (.stuck 0x04#8) := rfl

/-- M-4 to M-10. -/
theorem test_line_map :
    resolve .fixture 0x00060010#32 = [(8, 5), (8, 6), (8, 7)] ∧
    resolve .fixture 0x00420000#32 = [(8, 6), (7, 0)] ∧ resolve .fixture 0xF439706F#32 = [] ∧
    perBank .fixture 0x00060010#32 8 = 0xE0#32 ∧ defined .fixture = 0x0BC68F90#32 ∧
    toVirtual .fixture 8 0xFFFFFFFF#32 = 0x00060010#32 ∧ toVirtual .fixture 7 0x80000000#32 = 0#32 := by decide

/-- W8. -/
theorem test_window :
    windowAt .fixture .clock 0x20000190 .write = ⟨.clock, 0x20000000, 0x190, 4096, .write⟩ := by decide

/-! Witnesses: for each statement with hypotheses, a state and operands that meet them together, one for
each clause. -/

/-- A block in use: the clock line claimed and set, oe claimed as an input, the timing engine started, a pulser
with one of its two widths set. -/
def working : State :=
  { timed with outputs := 0x00020000#32, inputs := 0x00040000#32, dir := bank8 0x40#32, data := bank8 0x40#32
               memo := some ⟨0x00020000#32, .set⟩
               pulser := some ⟨0x00020000#32, 2#8, [some 130#32, none]⟩ }

/-- A command runs and `p` holds of its next state. -/
def leads (o : Out) (p : State → Bool) : Bool :=
  match o with
  | .next t => p t
  | _ => false

/-- What `leads` says of `o`. -/
theorem leads_next {o : Out} {p : State → Bool} (h : leads o p = true) : ∃ t, o = .next t ∧ p t = true := by
  cases o with
  | next t => exact ⟨t, rfl, h⟩
  | fault f => cases h
  | refused r => cases h

/-- The invariant holds of the block in use. -/
theorem working_inv : working.Inv := by
  constructor <;> decide

/-- The configuration is admitted. -/
theorem fixture_wf : Cfg.fixture.wellFormed = true := by decide

theorem witness_EncodeOfDecode : decode 0x0000000000000522#64 = .command (.sendPulse 5#8) := by decide

theorem witness_MaskAndMatch : 0x0002000000000005#64 &&& (formatOfCommand (.setBits 0#32)).maskBits =
    matchBits (.setBits 0#32) := by decide

theorem witness_DecodingIsTotal : ∃ s : State, s.cfg.wellFormed = true ∧ s.cfg.inAddressSpace = true ∧
    s.fault = 0#8 ∧ s.program[s.position]? = some 0x101#64 ∧ decode 0x101#64 = .illegal .reservedNotZero :=
  ⟨{ working with program := [0x101#64] }, by decide⟩

theorem witness_AssemblyLines : (2 ^ 32 - 1 : Nat) < 2 ^ 32 ∧ (0 : Nat) < 2 ^ 32 ∧ (255 : Nat) < 2 ^ 8 ∧
    (2 ^ 32 : Nat) ≤ 2 ^ 32 ∧ (2 ^ 8 : Nat) ≤ 2 ^ 8 := by decide

theorem witness_PseudoInstructions : Cfg.fixture.wellFormed = true ∧ (⟨.oe, 18, 8, 5⟩ : Line) ∈ Cfg.fixture.lineMap ∧
    ∃ s : State, s.cfg = Cfg.fixture ∧ s.result = some 0x00040000#32 :=
  ⟨by decide, by decide, { working with result := some 0x00040000#32 }, rfl, rfl⟩

theorem witness_StepRuns : ∃ s : State, s.cfg.wellFormed = true ∧ s.cfg.inAddressSpace = true ∧ s.fault = 0#8 ∧
    s.program[s.position]? = some 0x4#64 ∧ decode 0x4#64 = .command .readAll :=
  ⟨{ working with program := [0x1#64, 0x4#64], position := 1 }, by decide⟩

theorem witness_FaultedBlock : ∃ s : State, s.cfg.wellFormed = true ∧ s.cfg.inAddressSpace = true ∧
    s.fault ≠ 0#8 := ⟨{ working with fault := 0x04#8, program := [0x1#64] }, by decide⟩

theorem witness_OnlyWellFormed : { working with cfg := { Cfg.fixture with pageSize := 4 } }.cfg.wellFormed = false := by
  decide

theorem witness_BlockWithoutACommand : ∃ s : State, s.cfg.wellFormed = true ∧ s.cfg.inAddressSpace = true ∧
    s.fault = 0#8 ∧ s.program[s.position]? = none :=
  ⟨{ working with program := [0x1#64], position := 1 }, by decide⟩

theorem witness_ResetLeavesTheTable : 8 < Cfg.fixture.banks.length := by decide

theorem witness_StepKeepsTheInvariant : ∃ s t : State, s.Inv ∧ step s = .next t ∧ t.position = 1 := by
  have hi : State.Inv { working with program := [0x0004000000000006#64] } := by constructor <;> decide
  obtain ⟨t, h1, h2⟩ := leads_next
    (o := step { working with program := [0x0004000000000006#64] }) (p := fun t => t.position == 1) (by decide)
  exact ⟨_, t, hi, h1, by simpa using h2⟩

theorem witness_FaultsArePrecise : ∃ s t : State, s.Inv ∧ step s = .next t ∧ t.fault ≠ 0#8 := by
  have hi : State.Inv { working with program := [0x0000000000000222#64] } := by constructor <;> decide
  obtain ⟨t, h1, h2⟩ := leads_next
    (o := step { working with program := [0x0000000000000222#64] }) (p := fun t => t.fault ≠ 0#8) (by decide)
  exact ⟨_, t, hi, h1, by simpa using h2⟩

theorem witness_StepOnlyExtends : leads (step { working with program := [0x4#64] }) (fun _ => true) = true := by
  decide

theorem witness_ClaimedSets :
    leads (exec (.initOutputs 0x10#32) working) (fun t => t.outputs ≠ working.outputs) = true ∧
    leads (exec (.requestInputs 0x10#32) working) (fun t => t.inputs ≠ working.inputs) = true ∧
    working.outputs &&& working.inputs = 0#32 ∧ working.outputs &&& working.reserved = 0#32 ∧
    working.inputs &&& working.reserved = 0#32 := by decide

theorem witness_ResultWritten : leads (exec .readAll working) (fun t => t.result ≠ working.result) = true ∧
    working.result = none ∧ { working with result := some 7#32 }.result = some 7#32 := by decide

theorem witness_OnlyNamedCommands :
    leads (exec .init { State.reset with env := { Env.free with mapOutcomes := List.replicate 20 .ok } })
      (fun t => t.mapped) = true ∧
    leads (exec (.clearBits 0x10#32) working) (fun t => t.memo ≠ working.memo) = true ∧
    leads (exec .timerInit fresh) (fun t => t.timerInit) = true ∧
    leads (exec (.pulserAcquire 0#8 0#32) working) (fun t => t.pulser ≠ working.pulser) = true ∧
    leads (exec (.setBits 0x10#32) working) (fun t => t.data ≠ working.data) = true ∧
    leads (exec (.initOutputs 0x10#32) { working with dir := List.replicate 9 0#32 })
      (fun t => t.dir ≠ List.replicate 9 0#32) = true ∧
    leads (exec .readAll { working with clk := 1#16 }) (fun t => t.clk ≠ 1#16) = true := by decide

theorem witness_ClockGatePrecedes :
    leads (exec (.sendPulse 0#8) working) (fun t => t.trace.any (isBankAccess working.cfg)) = true := by decide

theorem witness_Windows : Cfg.fixture.wellFormed = true ∧ 0x10000FFC % 4 = 0 ∧ Cfg.fixture.banks[0]?.isSome = true ∧
    Cfg.fixture.banks[8]?.isSome = true ∧ Cfg.fixture.banks[9]? = none := by decide

theorem witness_AccessChecks :
    (clockWriteWindow .fixture).mode = .write ∧ (clockReadWindow .fixture).mode = .read ∧
    (readWindow .fixture 8).off + 4 * 1024 + 4 > (readWindow .fixture 8).length ∧
    (readWindow .fixture 8).off + 4 * 1023 + 4 ≤ (readWindow .fixture 8).length ∧
    (readWindow .fixture 8).target = .bank 8 ∧ (readWindow .fixture 8).mode = .read ∧
    (writeWindow .fixture 8).target = .bank 8 ∧ (writeWindow .fixture 8).mode = .write ∧
    (Run.mk fresh false).gated = false := by decide

theorem witness_BankAccesses : ∃ r : Run, r.st.cfg.wellFormed = true ∧ r.st.Sized ∧ r.gated = true ∧
    8 < r.st.cfg.numBanks ∧ r.st.cfg.dataReadMode = .latch := ⟨⟨working, true⟩, by decide⟩

theorem witness_BankReadsOfPins : ∃ r : Run, r.st.cfg.wellFormed = true ∧ r.gated = true ∧
    8 < r.st.cfg.numBanks ∧ r.st.cfg.dataReadMode = .pinForInputs ∧ r.st.env.pins = [0x20#32] :=
  ⟨⟨{ fresh with cfg := { Cfg.fixture with dataReadMode := .pinForInputs }
                 env := { Env.free with pins := [0x20#32] } }, true⟩, by decide⟩

/-- The list of pins is exhausted: the read is of some pins all the same. -/
theorem witness_BankReadsOfFreePins : ∃ r : Run, r.st.cfg.wellFormed = true ∧ r.gated = true ∧
    8 < r.st.cfg.numBanks ∧ r.st.cfg.dataReadMode = .pinForInputs ∧ r.st.env.pins = [] :=
  ⟨⟨{ fresh with cfg := { Cfg.fixture with dataReadMode := .pinForInputs } }, true⟩, by decide⟩

theorem witness_UndefinedBits : Cfg.fixture.wellFormed = true ∧ 0x00010000#32 ≠ 0#32 ∧
    0x00010000#32 &&& defined .fixture = 0#32 := by decide

theorem witness_ReadAll : State.reset.mapped = false ∧ working.cfg.wellFormed = true ∧ working.mapped = true ∧
    8 ∈ affected working.cfg (defined working.cfg) := by decide

theorem witness_InitAgain : working.mapped = true := rfl

theorem witness_InitMapsEveryWindow : ∃ s : State, s.mapped = false ∧ s.cfg.hostPrivileged = true ∧
    s.env.mapOutcomes = List.replicate (2 * s.cfg.numBanks + 2) .ok ++ [.fail] :=
  ⟨{ State.reset with env := { Env.free with mapOutcomes := List.replicate 20 .ok ++ [.fail] } }, by decide⟩

theorem witness_InitFailsFast : State.reset.mapped = false ∧
    { State.reset with cfg := { Cfg.fixture with hostPrivileged := false } }.cfg.hostPrivileged = false := by decide

/-- For the claims: nothing left to accept, and a mask accepted in part. -/
theorem witness_Claims : fresh.cfg.wellFormed = true ∧ fresh.Sized ∧ fresh.mapped = true ∧
    0#32 = 0x00020000#32 &&& ~~~(working.outputs ||| working.inputs ||| working.reserved) ∧
    0x10#32 = 0x00060010#32 &&& ~~~(working.outputs ||| working.inputs ||| working.reserved) ∧
    working.Sized ∧ working.mapped = true := by decide

theorem witness_SetAndClear : working.cfg.wellFormed = true ∧ working.Sized ∧ working.Quiet ∧
    working.mapped = true ∧ working.memo ≠ some ⟨0x00060010#32, .set⟩ ∧
    working.memo ≠ some ⟨0x00020000#32, .clear⟩ ∧ perBank working.cfg 0x00060010#32 8 ≠ 0#32 ∧
    perBank working.cfg 0x00060010#32 7 = 0#32 := by decide

theorem witness_MemoHits : working.memo = some ⟨0x00020000#32, .set⟩ ∧ working.cfg.dataReadMode = .latch ∧
    leads (exec (.setBits 0x00020000#32) { working with memo := none }) (fun _ => true) = true ∧
    leads (exec (.clearBits 0x00020000#32) { fresh with memo := none }) (fun _ => true) = true := by decide

/-- The clear clauses of the memo: a state that meets the invariant with a clear in the memo. -/
theorem witness_MemoHitsClear :
    State.Inv { fresh with memo := some ⟨0x00020000#32, .clear⟩ } := by constructor <;> decide

/-- One dirty bank of one polarity. -/
def flushing : State :=
  { fresh with wc := List.replicate 7 WcEntry.clean ++ [⟨0x1F#32, .clear, true, false⟩, WcEntry.clean] }

theorem flushing_entries (b : Nat) :
    flushing.wcOf b = if b = 7 then ⟨0x1F#32, .clear, true, false⟩ else WcEntry.clean := by
  by_cases h : b < 9
  · revert b; decide
  · have h7 : b ≠ 7 := by omega
    simp [flushing, State.wcOf, h7, List.getD_eq_getElem?_getD, show 9 ≤ b by omega]

theorem witness_FlushWritesDirtyBanks : flushing.cfg.wellFormed = true ∧ flushing.Sized ∧
    flushing.mapped = true ∧
    (∀ b, (flushing.wcOf b).dirty = true → (flushing.wcOf b).mixed = false) ∧
    (flushing.wcOf 7).dirty = true ∧ (flushing.wcOf 8).dirty = false ∧
    (∀ b, (fresh.wcOf b).dirty = false) := by
  refine ⟨by decide, by decide, by decide, ?_, by decide, by decide, ?_⟩
  · intro b
    rw [flushing_entries]
    split <;> simp [WcEntry.clean]
  · intro b
    by_cases h : b < 9
    · revert b; decide
    · simp [fresh, State.reset, State.boot, State.wcOf, Cfg.numBanks, Cfg.fixture, WcEntry.clean,
        List.getD_eq_getElem?_getD, show 9 ≤ b by omega]

/-- For the coalescing entries and the fault of OnlyNamedCommandsWriteEachField. -/
theorem witness_OnlyNamedCommandsEntries : leads (exec .flush flushing) (fun t => t.wc ≠ flushing.wc) = true ∧
    leads (exec .readAll State.reset) (fun t => (t.fault, t.faultInfo) ≠ (0#8, 0#64)) = true := by decide

/-- Bank 3 dirty with one polarity, and bank `b` of mixed polarity. -/
def mixing (b : Nat) : State :=
  { fresh with
    wc := ((List.replicate 9 WcEntry.clean).set 3 ⟨0x4#32, .set, true, false⟩).set b ⟨0x1F#32, .clear, true, true⟩ }

/-- A mixed bank after a dirty and a clean one, and the first bank mixed. -/
theorem witness_FlushOfMixedPolarity : (∀ b ∈ [0, 7], (mixing b).cfg.wellFormed = true ∧ (mixing b).Sized ∧
      (mixing b).mapped = true ∧ b < (mixing b).cfg.numBanks ∧ ((mixing b).wcOf b).dirty = true ∧
      ((mixing b).wcOf b).mixed = true ∧
      ∀ c < b, ((mixing b).wcOf c).dirty = true → ((mixing b).wcOf c).mixed = false) ∧
    ((mixing 7).wcOf 3).dirty = true ∧ ((mixing 7).wcOf 6).dirty = false := by decide

/-- A sleep of 38000 whose end lies less than 2^32 ticks after its start. -/
theorem witness_CounterCannotRunBehind : ∃ s : State,
    (osSleep 38000 (counterRead s)).time / 1000 < s.time / 1000 + 2 ^ 32 :=
  ⟨{ timed with env := { Env.free with elapses := [0, 1000] } }, by decide⟩

/-- A conclusive detection: R172's example, a content classified as a profile that is not the forced one. -/
theorem witness_TimerInitDetects : ∃ s : State, s.timerInit = false ∧ s.cfg.wellFormed = true ∧
    s.env.idFiles = [some [0x52#8]] ∧ s.cfg.detect.lookup [0x52#8] = some 1 ∧ s.cfg.forcedProfile = 0 ∧
    leads (exec .timerInit s) (fun t => t.detected == .profile 1 && t.active == 0) = true :=
  ⟨{ fresh with cfg := { Cfg.fixture with profiles := List.replicate 2 ⟨50, 50, 1, 2, 12000⟩
                                          detect := [([0x52#8], 1)] }
                env := { Env.free with idFiles := [some [0x52#8]] } }, by decide⟩

theorem witness_TimerInit : working.timerInit = true ∧ fresh.timerInit = false ∧
    { fresh with env := { Env.free with idFiles := [none], hintOutcomes := [.ok, .fail] } }.env.hintOutcomes =
      [.ok, .fail] ∧
    leads (exec .timerInit fresh) (fun _ => true) = true := by decide

/-- SLEEP_NANOS at the two thresholds: 17000 and 17001 with the counter, 30000 and 30001 without. -/
theorem witness_SleepFollowsItsPath : fresh.timerInit = false ∧ timed.timerInit = true ∧
    timed.cfg.profiles[timed.active]? = some ⟨50, 50, 1, 2, 12000⟩ ∧ timed.counterOk = true ∧
    { timed with counterOk := false }.counterOk = false ∧ 12000 + timed.cfg.minSleepNs < 17001 ∧
    17000 ≤ 12000 + timed.cfg.minSleepNs ∧ timed.cfg.ncThresholdNs < 30001 ∧ 30000 ≤ timed.cfg.ncThresholdNs := by
  decide

theorem witness_JitterAllowance : fresh.timerInit = false ∧ timed.cfg.wellFormed = true ∧
    timed.timerInit = true ∧ timed.cfg.profiles[timed.active]? = some ⟨50, 50, 1, 2, 12000⟩ := by decide

theorem witness_PulserSetWidth : ∃ p, working.mapped = true ∧ working.pulser = some p ∧
    (1#8).toNat < p.count.toNat ∧ p.widths.length = p.count.toNat := ⟨_, rfl, rfl, by decide, by decide⟩

theorem witness_SendPulse : ∃ p, working.cfg.wellFormed = true ∧ working.Sized ∧ working.Quiet ∧
    working.mapped = true ∧ working.timerInit = true ∧ working.pulser = some p ∧ (0#8).toNat < p.count.toNat ∧
    p.widths[(0#8).toNat]? = some (some 130#32) :=
  ⟨_, by decide, by decide, by decide, by decide, by decide, rfl, by decide, by decide⟩

/-- Every outcome of the checks of R215: the codes 0x02 to 0x06, the index at the count, and none. -/
theorem witness_FirstFailingCheck :
    firstFault (.sendPulse 0#8) State.reset = some (0x02#8, 0x22#64) ∧
    firstFault (.sendPulse 0#8) fresh = some (0x03#8, 0x22#64) ∧
    firstFault (.pulserSetWidth 0#8 50000#32) fresh = some (0x04#8, 0x0000C35000000021#64) ∧
    firstFault (.pulserSetWidth 2#8 10#32) working = some (0x05#8, 2#64) ∧
    firstFault (.sendPulse 1#8) working = some (0x06#8, 1#64) ∧
    firstFault (.sendPulse 0#8) working = none := by decide

theorem witness_CommandsNeedTheBankTable : State.reset.mapped = false := rfl

theorem witness_OneWritePerAffectedBank :
    leads (exec (.setBits 0x00060010#32) working) (fun _ => true) = true ∧
    leads (exec (.clearBits 0x00020000#32) working) (fun _ => true) = true := by decide

/-- Both conditions of R141: latches read back, and every line of the mask an output. -/
theorem witness_Readback : 0x00020000#32 &&& ~~~defined working.cfg = 0#32 ∧
    working.cfg.dataReadMode = .latch ∧ 0x00020000#32 &&& ~~~working.outputs = 0#32 := by decide

theorem witness_ReadbackOfPins :
    State.Inv { working with cfg := { Cfg.fixture with dataReadMode := .pinForInputs } } := by constructor <;> decide

theorem witness_DisjointClaims : fresh.cfg.wellFormed = true ∧ fresh.Sized ∧ fresh.mapped = true ∧
    fresh.outputs = 0#32 ∧ fresh.inputs = 0#32 ∧ fresh.reserved = 0#32 ∧ 0x00020000#32 &&& 0x00400000#32 = 0#32 ∧
    perBank fresh.cfg 0x00020000#32 0 = 0#32 ∧ perBank fresh.cfg 0x00400000#32 0 = 0#32 := by decide

theorem witness_PartialGrants :
    leads (exec (.requestInputs 0x00040000#32) fresh)
      (fun t => t.result == some 0x00040000#32 && 0x00040000#32 &&& 0x00060010#32 != 0#32) = true := by decide

theorem witness_ClaimedDirections : working.ClaimsDisjoint ∧ working.DirectionsKnown ∧
    leads (exec (.initOutputs 0x10#32) working) (fun _ => true) = true := by decide

end Sys2Proof.Tests
end

section
/-! SUPPORT. The configuration check of R10: each Boolean clause of `Cfg.wellFormed` as the clause of the rule,
in both directions. -/

namespace Sys2Proof

/-- The check is the conjunction of its eight clauses. -/
theorem Cfg.wellFormed_iff_clauses (cfg : Cfg) : cfg.wellFormed = true ↔
    cfg.banksOk = true ∧ cfg.clkOk = true ∧ cfg.linesOk = true ∧ cfg.reservedOk = true ∧
    cfg.profilesOk = true ∧ cfg.thresholdsOk = true ∧ cfg.pageOk = true ∧ cfg.calibrationOk = true := by
  simp only [Cfg.wellFormed, Bool.and_eq_true, and_assoc]

/-- R10 clause 1. The check adds 8 where the rule subtracts it; the two agree because of clause 7. -/
theorem Cfg.banksOk_iff {cfg : Cfg} (hpage : 8 ≤ cfg.pageSize) : cfg.banksOk = true ↔
    9 ≤ cfg.numBanks ∧
    (∀ k ∈ cfg.banks, k.base % 4 = 0 ∧ k.base % cfg.pageSize ≤ cfg.pageSize - 8) ∧
    (cfg.banks.map BankCfg.base).Nodup := by
  simp only [Cfg.banksOk, Bool.and_eq_true, List.all_eq_true, beq_iff_eq, decide_eq_true_eq,
    and_assoc, Nat.le_sub_iff_add_le hpage]

/-- R10 clause 2. -/
theorem Cfg.clkOk_iff (cfg : Cfg) : cfg.clkOk = true ↔ (cfg.cruBase + cfg.clkEnOffset) % 4 = 0 := by
  simp only [Cfg.clkOk, Cfg.clkAddr, beq_iff_eq]

/-- R10 clause 3. -/
theorem Cfg.linesOk_iff (cfg : Cfg) : cfg.linesOk = true ↔
    cfg.lineMap.map Line.name = LineName.all ∧
    (∀ l ∈ cfg.lineMap, l.vbit < Config.vbits ∧ l.bank < cfg.numBanks ∧ l.pbit < Config.regw) ∧
    (cfg.lineMap.map Line.vbit).Nodup ∧ (cfg.lineMap.map fun l => (l.bank, l.pbit)).Nodup ∧
    (⟨.clock, 17, 8, 6⟩ : Line) ∈ cfg.lineMap := by
  simp only [Cfg.linesOk, Bool.and_eq_true, List.all_eq_true,
    List.contains_iff_mem, beq_iff_eq, decide_eq_true_eq, and_assoc]

/-- R10 clause 4. -/
theorem Cfg.reservedOk_iff (cfg : Cfg) : cfg.reservedOk = true ↔ cfg.reservedInit < 2 ^ Config.vbits := by
  simp only [Cfg.reservedOk, decide_eq_true_eq]

/-- What a table answers is at a key the table lists. -/
theorem exists_mem_of_lookup_eq_some {α β : Type} [BEq α] [LawfulBEq α] {l : List (α × β)} {c : α} {v : β}
    (h : l.lookup c = some v) : ∃ e ∈ l, e.1 = c := by
  obtain ⟨e, he, hce⟩ := List.lookup_isSome_iff.1 (Option.isSome_of_eq_some h)
  exact ⟨e, he, (eq_of_beq hce).symm⟩

/-- R10 clause 5, for `DETECT`: to check the contents listed in a table is to check every content, since a
content that is not listed is inconclusive. -/
theorem all_lookup_listed_iff {α β : Type} [BEq α] [LawfulBEq α] (l : List (α × β)) (P : β → Bool) :
    (∀ d ∈ l, (l.lookup d.1).all P = true) ↔ ∀ c p, l.lookup c = some p → P p = true := by
  constructor
  · intro hlisted c p hc
    obtain ⟨d, hd, rfl⟩ := exists_mem_of_lookup_eq_some hc
    simpa [hc] using hlisted d hd
  · intro hall d _
    exact (Option.all_eq_true P _).2 fun p hp => hall d.1 p hp

/-- R10 clause 5. A default index below the length gives the non-empty table. -/
theorem Cfg.profilesOk_iff (cfg : Cfg) : cfg.profilesOk = true ↔
    cfg.profiles ≠ [] ∧ cfg.defaultProfile < cfg.profiles.length ∧
    cfg.forcedProfile < cfg.profiles.length ∧
    (∀ c p, cfg.detect.lookup c = some p → p < cfg.profiles.length) ∧
    ∀ p ∈ cfg.profiles, 0 < p.den ∧ p.num < 2 ^ 31 ∧ p.jitterNs < 2 ^ 32 := by
  have hnonempty : cfg.defaultProfile < cfg.profiles.length → cfg.profiles ≠ [] :=
    fun h => List.ne_nil_of_length_pos (Nat.zero_lt_of_lt h)
  simp only [Cfg.profilesOk, Bool.and_eq_true, List.all_eq_true, all_lookup_listed_iff, decide_eq_true_eq, and_assoc]
  exact ⟨fun h => ⟨hnonempty h.1, h⟩, And.right⟩

/-- R10 clause 6. -/
theorem Cfg.thresholdsOk_iff (cfg : Cfg) : cfg.thresholdsOk = true ↔ cfg.ncOverheadNs ≤ cfg.ncThresholdNs := by
  simp only [Cfg.thresholdsOk, decide_eq_true_eq]

/-- R10 clause 7: a power of two is the power of its own logarithm. -/
theorem Cfg.pageOk_iff (cfg : Cfg) : cfg.pageOk = true ↔ (∃ k, cfg.pageSize = 2 ^ k) ∧ 8 ≤ cfg.pageSize := by
  have hpow : 2 ^ cfg.pageSize.log2 = cfg.pageSize ↔ ∃ k, cfg.pageSize = 2 ^ k := by
    constructor
    · exact fun h => ⟨_, h.symm⟩
    · rintro ⟨k, hk⟩
      rw [hk, Nat.log2_two_pow]
  simp only [Cfg.pageOk, Bool.and_eq_true, decide_eq_true_eq, beq_iff_eq, hpow, and_comm]

/-- R10 clause 8: a width in the table is checked by its entry, and any other is its own calibration. -/
theorem Cfg.calibrationOk_iff (cfg : Cfg) : cfg.calibrationOk = true ↔
    ∀ w < 2 ^ 32, (cfg.pulseCalibration.lookup w).getD w < 2 ^ 32 := by
  simp only [Cfg.calibrationOk, List.all_eq_true, Bool.or_eq_true, decide_eq_true_eq]
  constructor
  · intro hlisted w hw
    cases hlookup : cfg.pulseCalibration.lookup w with
    | none => exact hw
    | some v =>
      obtain ⟨e, he, rfl⟩ := exists_mem_of_lookup_eq_some hlookup
      rw [← hlookup]
      exact (hlisted e he).resolve_left (Nat.not_le.2 hw)
  · intro hall e _
    exact (Nat.lt_or_ge e.1 (2 ^ 32)).elim (fun hw => .inr (hall e.1 hw)) .inl

end Sys2Proof
end

section
/-! SUPPORT. What `step` does by the checks before a command runs (R7, R10, R215). -/

namespace Sys2Proof.Machine

/-- R10: a configuration that fails the check is refused before anything else. -/
theorem admission_of_not_wellFormed {s : State} (hwf : s.cfg.wellFormed = false) :
    admission s = .refuse .illFormedConfig := by
  simp [admission, hwf]

/-- R215: with checks 1 and 2 passed, the next word's command runs. -/
theorem admission_of_decode {s : State} {w : CmdWord} {i : Instr} (hwf : s.cfg.wellFormed = true)
    (hspace : s.cfg.inAddressSpace = true) (hfault : s.fault = 0#8)
    (hfetch : s.program[s.position]? = some w) (hdecode : decode w = .command i) :
    admission s = .run i := by
  simp [admission, fetch, hwf, hspace, hfault, hfetch, hdecode]

/-- A refused state takes no step. -/
theorem step_of_admission_refuse {s : State} {why : Refusal} (h : admission s = .refuse why) :
    step s = .refused why := by
  simp only [step, h]

/-- An admitted command is executed, and the host's position brought up to date (R7, R23). -/
theorem step_of_admission_run {s : State} {i : Instr} (h : admission s = .run i) :
    step s = settle (exec i s) := by
  simp only [step, h]

end Sys2Proof.Machine
end

section
/-! CERTIFICATE. The statements of 00_scope.md: what a configuration must meet for a step, and what a step
then runs. -/

namespace Sys2Proof

open Machine

/-- Settles O11, clause by clause; clause 7 comes first, since clause 1 subtracts from the page size. -/
theorem onlyWellFormedConfigurationsStep : Obligations.OnlyWellFormedConfigurationsStep := by
  refine ⟨fun cfg => ?_, fun s hwf => step_of_admission_refuse (admission_of_not_wellFormed hwf)⟩
  rw [Cfg.wellFormed_iff_clauses, Cfg.clkOk_iff, Cfg.linesOk_iff, Cfg.reservedOk_iff, Cfg.profilesOk_iff,
    Cfg.thresholdsOk_iff, Cfg.pageOk_iff, Cfg.calibrationOk_iff]
  by_cases hpage : 8 ≤ cfg.pageSize
  · rw [Cfg.banksOk_iff hpage]
    rfl
  · simp only [hpage, and_false, false_and]

/-- Settles O9: the command is admitted, and `settle` moves the position of the state it answers. -/
theorem stepRunsTheDecodedCommand : Obligations.StepRunsTheDecodedCommand := by
  intro s w i hwf hspace hfault hfetch hdecode
  rw [step_of_admission_run (admission_of_decode hwf hspace hfault hfetch hdecode)]
  cases exec i s with
  | next t => rfl
  | fault f => rfl
  | refused r => rfl

end Sys2Proof
end

section
/-! SUPPORT. One inversion of `exec`: a check of R215 fails and raises its fault, or the command's body
runs. -/

namespace Sys2Proof.Machine

/-- The codes a command is refused with before it performs any event (R214): 0x01 to 0x06. -/
abbrev FaultCode.Precise (c : FaultCode) : Prop := 1 ≤ c.toByte.toNat ∧ c.toByte.toNat ≤ 6

/-- A precise fault was raised, and nothing else was written (R212, R214). -/
def CheckFailed (s t : State) : Prop := ∃ (c : FaultCode) (info : BitVec 64), c.Precise ∧ t = raise c info s

/-- The answer of a body once the checks before it have held. -/
theorem checkFailed_or_ran {s t u : State} {B : State → Prop} (h : (.next u : Out) = .next t) (hu : B u) :
    CheckFailed s t ∨ B t := by
  cases h; exact .inr hu

/-- Check 3 of R215 refuses the command or lets it go on. -/
theorem needMapped_next {i : Instr} {s t : State} {k : Out} {B : State → Prop}
    (h : needMapped i s k = .next t) (hk : s.mapped = true → k = .next t → CheckFailed s t ∨ B t) :
    CheckFailed s t ∨ B t := by
  unfold needMapped at h
  split at h
  · exact hk ‹_› h
  · cases h; exact .inl ⟨_, _, by decide, rfl⟩

/-- Check 4 of R215 refuses the command or lets it go on. -/
theorem needTimer_next {i : Instr} {s t : State} {k : Out} {B : State → Prop}
    (h : needTimer i s k = .next t) (hk : s.timerInit = true → k = .next t → CheckFailed s t ∨ B t) :
    CheckFailed s t ∨ B t := by
  unfold needTimer at h
  split at h
  · exact hk ‹_› h
  · cases h; exact .inl ⟨_, _, by decide, rfl⟩

/-- Check 5 of R215 refuses the command or finds the pulser. -/
theorem needPulser_next {i : Instr} {s t : State} {k : Pulser → Out} {B : State → Prop}
    (h : needPulser i s k = .next t) (hk : ∀ p, s.pulser = some p → k p = .next t → CheckFailed s t ∨ B t) :
    CheckFailed s t ∨ B t := by
  unfold needPulser at h
  split at h
  · exact hk _ ‹_› h
  · cases h; exact .inl ⟨_, _, by decide, rfl⟩

/-- Check 6 of R215 refuses the command or lets it go on. -/
theorem needIndex_next {idx : BitVec 8} {p : Pulser} {s t : State} {k : Out} {B : State → Prop}
    (h : needIndex idx p s k = .next t) (hk : idx < p.count → k = .next t → CheckFailed s t ∨ B t) :
    CheckFailed s t ∨ B t := by
  unfold needIndex at h
  split at h
  · cases h; exact .inl ⟨_, _, by decide, rfl⟩
  · exact hk (BitVec.not_le.1 ‹_›) h

/-- Check 7 of R215 refuses the command or finds the width. -/
theorem needWidth_next {idx : BitVec 8} {p : Pulser} {s t : State} {k : Word → Out} {B : State → Prop}
    (h : needWidth idx p s k = .next t)
    (hk : ∀ w, p.width idx.toNat = some w → k w = .next t → CheckFailed s t ∨ B t) : CheckFailed s t ∨ B t := by
  unfold needWidth at h
  split at h
  · exact hk _ ‹_› h
  · cases h; exact .inl ⟨_, _, by decide, rfl⟩

/-- The checks of R215 hold in `s`, and the body of the command runs from `s` to the given state. -/
inductive BodyRan (s : State) : Instr → State → Prop
  | init : BodyRan s .init (if s.mapped then setResult 0#32 s else initTable s)
  | initOutputs (m : Word) (hm : s.mapped = true) : BodyRan s (.initOutputs m)
      ((claim m true ⟨s, false⟩).bind fun _ r =>
        .ok () { r with st := addOutputs (s.accepted m) r.st }).final
  | requestInputs (m : Word) (hm : s.mapped = true) : BodyRan s (.requestInputs m)
      ((claim m false ⟨s, false⟩).bind fun _ r =>
        .ok () { r with st := addInputs (s.accepted m) r.st }).final
  | readAll (hm : s.mapped = true) : BodyRan s .readAll
      ((clockEnable ⟨s, false⟩).bind fun _ r =>
        (readBanks (banksAscending r.st.cfg) 0#32 r).bind fun v r' =>
          .ok () { r' with st := setResult v r'.st }).final
  | setBits (m : Word) (hm : s.mapped = true) : BodyRan s (.setBits m) (applyBits m .set ⟨s, false⟩).final
  | clearBits (m : Word) (hm : s.mapped = true) :
      BodyRan s (.clearBits m) (applyBits m .clear ⟨s, false⟩).final
  | flush (hm : s.mapped = true) : BodyRan s .flush (flushStep ⟨s, false⟩).final
  | timerInit : BodyRan s .timerInit (setResult 0#32 (if s.timerInit then s else timerStartup s))
  | sleepNanos (ns : Word) (ht : s.timerInit = true) : BodyRan s (.sleepNanos ns) (sleepBody ns.toNat s)
  | jitterAllowance (ht : s.timerInit = true) :
      BodyRan s .jitterAllowance (setResult (BitVec.ofNat 32 s.profile.jitterNs) s)
  | pulserAcquire (k : BitVec 8) (m : Word) (hm : s.mapped = true) :
      BodyRan s (.pulserAcquire k m) (setPulser ⟨m, k, List.replicate k.toNat none⟩ s)
  | pulserSetWidth (k : BitVec 8) (ns : Word) {p : Pulser} (hm : s.mapped = true) (hp : s.pulser = some p)
      (hk : k < p.count) : BodyRan s (.pulserSetWidth k ns) (setPulser (p.setWidth k.toNat ns) s)
  | sendPulse (k : BitVec 8) {p : Pulser} {w : Word} (hm : s.mapped = true) (ht : s.timerInit = true)
      (hp : s.pulser = some p) (hk : k < p.count) (hw : p.width k.toNat = some w) :
      BodyRan s (.sendPulse k) (pulseBody p.mask (calibrated s.cfg w.toNat) ⟨s, false⟩).final

/-- What a command can answer (R215): it is refused by a check, or its body runs. -/
theorem exec_cases {i : Instr} {s t : State} (h : exec i s = .next t) : CheckFailed s t ∨ BodyRan s i t := by
  cases i with
  | init => exact checkFailed_or_ran h .init
  | timerInit => exact checkFailed_or_ran h .timerInit
  | initOutputs m => exact needMapped_next h fun hm h => checkFailed_or_ran h (.initOutputs m hm)
  | requestInputs m => exact needMapped_next h fun hm h => checkFailed_or_ran h (.requestInputs m hm)
  | readAll => exact needMapped_next h fun hm h => checkFailed_or_ran h (.readAll hm)
  | setBits m => exact needMapped_next h fun hm h => checkFailed_or_ran h (.setBits m hm)
  | clearBits m => exact needMapped_next h fun hm h => checkFailed_or_ran h (.clearBits m hm)
  | flush => exact needMapped_next h fun hm h => checkFailed_or_ran h (.flush hm)
  | sleepNanos ns => exact needTimer_next h fun ht h => checkFailed_or_ran h (.sleepNanos ns ht)
  | jitterAllowance => exact needTimer_next h fun ht h => checkFailed_or_ran h (.jitterAllowance ht)
  | pulserAcquire k m => exact needMapped_next h fun hm h => checkFailed_or_ran h (.pulserAcquire k m hm)
  | pulserSetWidth k ns =>
    exact needMapped_next h fun hm h => needPulser_next h fun p hp h => needIndex_next h fun hk h =>
      checkFailed_or_ran h (.pulserSetWidth k ns hm hp hk)
  | sendPulse k =>
    exact needMapped_next h fun hm h => needTimer_next h fun ht h => needPulser_next h fun p hp h =>
      needIndex_next h fun hk h => needWidth_next h fun w hw h =>
        checkFailed_or_ran h (.sendPulse k hm ht hp hk hw)

end Sys2Proof.Machine
end

section
/-! SUPPORT. The frame of every command, in every state: the fields its rule lets it write, the fault
registers, and the history, which it only extends (R38, R37, R170). -/

namespace Sys2Proof.Machine

/-- From `s` to `t` only the fault registers and the history have moved, and the history forwards. -/
structure HistoryOnly (s t : State) : Prop where
  eq : t = { s with fault := t.fault, faultInfo := t.faultInfo, trace := t.trace, time := t.time, env := t.env }
  trace : s.trace <+: t.trace
  time : s.time ≤ t.time

theorem HistoryOnly.refl (s : State) : HistoryOnly s s := ⟨rfl, List.prefix_rfl, Nat.le_refl _⟩

/-- `Kept` as one equation. -/
theorem Kept.eq {s t : State} (h : Kept s t) :
    t = { s with fault := t.fault, faultInfo := t.faultInfo, wc := t.wc, data := t.data, dir := t.dir,
                 clk := t.clk, trace := t.trace, time := t.time, env := t.env } :=
  State.ext h.cfg h.program h.position h.result rfl rfl h.mapped h.outputs h.inputs h.reserved rfl h.memo
    h.timerInit h.detected h.active h.counterOk h.pulser rfl rfl rfl rfl h.phase0 rfl rfl

/-- Waiting moves the history alone. -/
theorem Waited.historyOnly {s t : State} (h : Waited s t) (hk : Kept s t) : HistoryOnly s t :=
  ⟨by rw [h.eq], hk.trace, hk.time⟩

/-- `s` with the fields the rule of command `i` lets it write taken from `t` (R20, R24, R27, R29, R31 to
R35). -/
def State.withWrites (s : State) (i : Instr) (t : State) : State :=
  match i with
  | .init => { s with mapped := t.mapped, result := t.result }
  | .initOutputs _ => { s with result := t.result, outputs := t.outputs, dir := t.dir, clk := t.clk }
  | .requestInputs _ => { s with result := t.result, inputs := t.inputs, dir := t.dir, clk := t.clk }
  | .readAll => { s with result := t.result, clk := t.clk }
  | .setBits _ | .clearBits _ | .sendPulse _ =>
    { s with wc := t.wc, memo := t.memo, data := t.data, clk := t.clk }
  | .flush => { s with wc := t.wc, data := t.data, clk := t.clk }
  | .timerInit => { s with timerInit := t.timerInit, detected := t.detected, active := t.active,
                           counterOk := t.counterOk, result := t.result }
  | .sleepNanos _ => s
  | .jitterAllowance => { s with result := t.result }
  | .pulserAcquire _ _ | .pulserSetWidth _ _ => { s with pulser := t.pulser }

/-- The frame of command `i`. -/
abbrev Framed (i : Instr) (s t : State) : Prop := HistoryOnly (s.withWrites i t) t

/-- A fault of a check writes the fault registers only (R212). -/
theorem CheckFailed.framed {s t : State} (h : CheckFailed s t) (i : Instr) : Framed i s t := by
  obtain ⟨c, info, -, rfl⟩ := h
  cases i <;> exact ⟨rfl, List.prefix_rfl, Nat.le_refl _⟩

/-- A property of the state a part of a command leaves, which what follows keeps. -/
theorem Res.final_bind {α β : Type} {P : State → Prop} {x : Res α} {f : α → Run → Res β} (hx : P x.final)
    (hf : ∀ a r, P r.st → P (f a r).final) : P (x.bind f).final := by
  cases x with
  | ok a r => exact hf a r hx
  | raised u => exact hx

/-- INIT (R102). -/
theorem init_framed (s : State) : Framed .init s (if s.mapped then setResult 0#32 s else initTable s) := by
  split
  · exact HistoryOnly.refl _
  · have h := (mapAll_spec (initWindows s.cfg) s).1.historyOnly (mapAll_kept _ s)
    simp only [initTable]
    split
    · exact ⟨by rw [h.eq]; rfl, h.trace, h.time⟩
    · exact ⟨by rw [h.eq]; rfl, h.trace, h.time⟩

/-- A claim up to the update of the claimed set (R130): no data latch, no entry. -/
theorem claim_history (m : Word) (dirbit : Bool) (r : Run) {u : State} (hu : (claim m dirbit r).final = u) :
    HistoryOnly { r.st with result := u.result, dir := u.dir, clk := u.clk } u := by
  have hk : Kept { r.st with result := u.result } u := hu ▸ claim_kept m dirbit r
  have e := hk.eq
  rw [show u.wc = r.st.wc from hu ▸ claim_wc m dirbit r,
    show u.data = r.st.data from hu ▸ claim_data m dirbit r] at e
  exact ⟨by rw [e], hk.trace, hk.time⟩

/-- INIT_OUTPUTS (R131). -/
theorem initOutputs_framed (m a : Word) (r : Run) : Framed (.initOutputs m) r.st
    ((claim m true r).bind fun _ r' => .ok () { r' with st := addOutputs a r'.st }).final := by
  have h := claim_history m true r rfl
  refine Res.final_bind ⟨by rw [h.eq]; rfl, h.trace, h.time⟩ fun _ r' hr => ?_
  exact ⟨by rw [Res.final_ok, hr.eq]; rfl, hr.trace, hr.time⟩

/-- REQUEST_INPUTS (R132). -/
theorem requestInputs_framed (m a : Word) (r : Run) : Framed (.requestInputs m) r.st
    ((claim m false r).bind fun _ r' => .ok () { r' with st := addInputs a r'.st }).final := by
  have h := claim_history m false r rfl
  refine Res.final_bind ⟨by rw [h.eq]; rfl, h.trace, h.time⟩ fun _ r' hr => ?_
  exact ⟨by rw [Res.final_ok, hr.eq]; rfl, hr.trace, hr.time⟩

/-- `ClockEnable()` (R106) writes the gate field only. -/
theorem clockEnable_history (r : Run) {u : State} (hu : (clockEnable r).final = u) :
    HistoryOnly { r.st with clk := u.clk } u := by
  have hk : Kept r.st u := hu ▸ clockEnable_kept r
  have e := hk.eq
  rw [show u.wc = r.st.wc from hu ▸ devWrite_wc _ _ _ r, show u.data = r.st.data from hu ▸ clockEnable_data r,
    show u.dir = r.st.dir from hu ▸ clockEnable_dir r] at e
  exact ⟨by rw [e], hk.trace, hk.time⟩

/-- The reads of READ_ALL write no register (R133). -/
theorem readBanks_history (bs : List Nat) (v : Word) (r : Run) {u : State} (hu : (readBanks bs v r).final = u) :
    HistoryOnly { r.st with clk := u.clk } u := by
  have hk : Kept r.st u := hu ▸ readBanks_kept bs v r
  have e := hk.eq
  rw [show u.wc = r.st.wc from hu ▸ readBanks_wc bs v r,
    show u.data = r.st.data from hu ▸ readBanks_data bs v r,
    show u.dir = r.st.dir from hu ▸ readBanks_dir bs v r] at e
  exact ⟨by rw [e], hk.trace, hk.time⟩

/-- READ_ALL (R133). -/
theorem readAll_framed (r : Run) : Framed .readAll r.st
    ((clockEnable r).bind fun _ r1 => (readBanks (banksAscending r1.st.cfg) 0#32 r1).bind fun v r2 =>
      .ok () { r2 with st := setResult v r2.st }).final := by
  have h := clockEnable_history r rfl
  refine Res.final_bind ⟨by rw [h.eq]; rfl, h.trace, h.time⟩ fun _ r1 h1 => ?_
  have h2 := readBanks_history (banksAscending r1.st.cfg) 0#32 r1 rfl
  refine Res.final_bind ⟨by rw [h2.eq, h1.eq]; rfl, h1.trace.trans h2.trace, h1.time.trans h2.time⟩
    fun v r3 h3 => ?_
  exact ⟨by rw [Res.final_ok, h3.eq]; rfl, h3.trace, h3.time⟩

/-- What a flush may write (R138). -/
theorem flushStep_framed (r : Run) : Framed .flush r.st (flushStep r).final := by
  have hk := flushStep_kept r
  have e := hk.eq
  rw [flushStep_dir] at e
  exact ⟨e, hk.trace, hk.time⟩

/-- SET_BITS, CLEAR_BITS and SEND_PULSE write the same fields, whatever their operands (R134, R135, R202). -/
abbrev BitsFramed (s t : State) : Prop :=
  HistoryOnly { s with wc := t.wc, memo := t.memo, data := t.data, clk := t.clk } t

theorem BitsFramed.trans {s t u : State} (h : BitsFramed s t) (k : BitsFramed t u) : BitsFramed s u :=
  ⟨k.eq.trans (by rw [h.eq]), h.trace.trans k.trace, h.time.trans k.time⟩

/-- The common body of SET_BITS and CLEAR_BITS (R134, R135). -/
theorem applyBits_framed (m : Word) (pol : Polarity) (r : Run) : BitsFramed r.st (applyBits m pol r).final := by
  have hk := applyBits_kept m pol r
  have e := hk.eq
  rw [applyBits_dir] at e
  exact ⟨e, hk.trace, hk.time⟩

/-- Waiting (R178). -/
theorem sleepBody_history (d : Nat) (s : State) : HistoryOnly s (sleepBody d s) :=
  (sleepBody_waited d s).historyOnly (sleepBody_kept d s)

/-- The three bodies of a pulse (R202). -/
theorem pulseBody_framed (m : Word) (d : Nat) (r : Run) : BitsFramed r.st (pulseBody m d r).final := by
  refine Res.final_bind (applyBits_framed m .clear r) fun _ r1 h1 => ?_
  have hs := sleepBody_history d r1.st
  have h2 : BitsFramed r1.st (sleepBody d r1.st) := ⟨by rw [hs.eq], hs.trace, hs.time⟩
  exact (h1.trans h2).trans (applyBits_framed m .set { r1 with st := sleepBody d r1.st })

theorem HistoryOnly.trans {s t u : State} (h : HistoryOnly s t) (k : HistoryOnly t u) : HistoryOnly s u :=
  ⟨k.eq.trans (by rw [h.eq]), h.trace.trans k.trace, h.time.trans k.time⟩

theorem idFileRead_history (s : State) : HistoryOnly s (idFileRead s) :=
  ⟨rfl, ((setEnv_kept _ _).trans (emit_kept _ _)).trace, ((setEnv_kept _ _).trans (emit_kept _ _)).time⟩

theorem osHint_history (kind : HintKind) (v : Int) (s : State) : HistoryOnly s (osHint kind v s) :=
  ⟨rfl, ((setEnv_kept _ _).trans (emit_kept _ _)).trace, ((setEnv_kept _ _).trans (emit_kept _ _)).time⟩

/-- The start of the timing engine (R172): its flags, and three events. -/
theorem timerStartup_history (s : State) :
    HistoryOnly (startTimer (detection s.cfg s.env.idFile) s) (timerStartup s) := by
  have h := idFileRead_history s
  have h1 : HistoryOnly (startTimer (detection s.cfg s.env.idFile) s)
      (startTimer (detection s.cfg s.env.idFile) (idFileRead s)) := ⟨by rw [h.eq]; rfl, h.trace, h.time⟩
  unfold timerStartup
  exact h1.trans ((osHint_history _ _ _).trans (osHint_history _ _ _))

/-- TIMER_INIT (R172). -/
theorem timerInit_framed (s : State) :
    Framed .timerInit s (setResult 0#32 (if s.timerInit then s else timerStartup s)) := by
  split
  · exact HistoryOnly.refl _
  · have h := timerStartup_history s
    generalize timerStartup s = u at h ⊢
    exact ⟨by rw [h.eq]; rfl, h.trace, h.time⟩

/-- The frame of every command, from every state. -/
theorem exec_framed {i : Instr} {s t : State} (h : exec i s = .next t) : Framed i s t := by
  rcases exec_cases h with hf | hr
  · exact hf.framed i
  cases hr with
  | init => exact init_framed s
  | initOutputs m => exact initOutputs_framed m _ ⟨s, false⟩
  | requestInputs m => exact requestInputs_framed m _ ⟨s, false⟩
  | readAll => exact readAll_framed ⟨s, false⟩
  | setBits m => exact applyBits_framed m .set ⟨s, false⟩
  | clearBits m => exact applyBits_framed m .clear ⟨s, false⟩
  | flush => exact flushStep_framed ⟨s, false⟩
  | timerInit => exact timerInit_framed s
  | sleepNanos ns => exact sleepBody_history ns.toNat s
  | jitterAllowance => exact HistoryOnly.refl _
  | pulserAcquire k m => exact HistoryOnly.refl _
  | pulserSetWidth k ns => exact HistoryOnly.refl _
  | sendPulse k => exact pulseBody_framed _ _ ⟨s, false⟩

end Sys2Proof.Machine
end

section
/-! SUPPORT. What each command may write, field by field (R20, R24, R27, R29, R31 to R35): its frame read
clause by clause. -/

namespace Sys2Proof.Machine

/-! No command writes the configuration, the host's sequence and position, PHASE0 or `reserved`. -/

@[simp] theorem withWrites_cfg (s t : State) (i : Instr) : (s.withWrites i t).cfg = s.cfg := by cases i <;> rfl
@[simp] theorem withWrites_program (s t : State) (i : Instr) : (s.withWrites i t).program = s.program := by
  cases i <;> rfl
@[simp] theorem withWrites_position (s t : State) (i : Instr) : (s.withWrites i t).position = s.position := by
  cases i <;> rfl
@[simp] theorem withWrites_phase0 (s t : State) (i : Instr) : (s.withWrites i t).phase0 = s.phase0 := by
  cases i <;> rfl
@[simp] theorem withWrites_reserved (s t : State) (i : Instr) : (s.withWrites i t).reserved = s.reserved := by
  cases i <;> rfl
@[simp] theorem withWrites_trace (s t : State) (i : Instr) : (s.withWrites i t).trace = s.trace := by
  cases i <;> rfl
@[simp] theorem withWrites_time (s t : State) (i : Instr) : (s.withWrites i t).time = s.time := by
  cases i <;> rfl

section
variable {i : Instr} {s t : State}

theorem exec_cfg (h : exec i s = .next t) : t.cfg = s.cfg := by rw [(exec_framed h).eq]; simp
theorem exec_program (h : exec i s = .next t) : t.program = s.program := by rw [(exec_framed h).eq]; simp
theorem exec_position (h : exec i s = .next t) : t.position = s.position := by rw [(exec_framed h).eq]; simp
theorem exec_phase0 (h : exec i s = .next t) : t.phase0 = s.phase0 := by rw [(exec_framed h).eq]; simp
theorem exec_reserved (h : exec i s = .next t) : t.reserved = s.reserved := by rw [(exec_framed h).eq]; simp
theorem exec_trace (h : exec i s = .next t) : s.trace <+: t.trace := by simpa using (exec_framed h).trace
theorem exec_time (h : exec i s = .next t) : s.time ≤ t.time := by simpa using (exec_framed h).time

/-! The writers of each other field. -/

/-- The writers of RESULT (R20). -/
theorem exec_result_writer (h : exec i s = .next t) (hne : t.result ≠ s.result) :
    i = .init ∨ (∃ m, i = .initOutputs m) ∨ (∃ m, i = .requestInputs m) ∨ i = .readAll ∨ i = .timerInit ∨
      i = .jitterAllowance := by
  have e := (exec_framed h).eq
  cases i with
  | init => simp
  | initOutputs m => simp
  | requestInputs m => simp
  | readAll => simp
  | timerInit => simp
  | jitterAllowance => simp
  | _ => exact absurd (by rw [e]; rfl) hne

/-- The writers of the bank-table flag (R24). -/
theorem exec_mapped_writer (h : exec i s = .next t) (hne : t.mapped ≠ s.mapped) : i = .init := by
  have e := (exec_framed h).eq
  cases i with
  | init => rfl
  | _ => exact absurd (by rw [e]; rfl) hne

/-- The writers of `outputs` (R27). -/
theorem exec_outputs_writer (h : exec i s = .next t) (hne : t.outputs ≠ s.outputs) :
    ∃ m, i = .initOutputs m := by
  have e := (exec_framed h).eq
  cases i with
  | initOutputs m => exact ⟨m, rfl⟩
  | _ => exact absurd (by rw [e]; rfl) hne

/-- The writers of `inputs` (R27). -/
theorem exec_inputs_writer (h : exec i s = .next t) (hne : t.inputs ≠ s.inputs) :
    ∃ m, i = .requestInputs m := by
  have e := (exec_framed h).eq
  cases i with
  | requestInputs m => exact ⟨m, rfl⟩
  | _ => exact absurd (by rw [e]; rfl) hne

/-- The writers of the coalescing entries, which are those of the data latches (R29, R34). -/
theorem exec_latch_writer (h : exec i s = .next t) (hne : t.wc ≠ s.wc ∨ t.data ≠ s.data) :
    (∃ m, i = .setBits m) ∨ (∃ m, i = .clearBits m) ∨ i = .flush ∨ ∃ k, i = .sendPulse k := by
  have e := (exec_framed h).eq
  cases i with
  | setBits m => simp
  | clearBits m => simp
  | flush => simp
  | sendPulse k => simp
  | _ => exact hne.elim (absurd (by rw [e]; rfl)) (absurd (by rw [e]; rfl))

/-- The writers of the memo (R31). -/
theorem exec_memo_writer (h : exec i s = .next t) (hne : t.memo ≠ s.memo) :
    (∃ m, i = .setBits m) ∨ (∃ m, i = .clearBits m) ∨ ∃ k, i = .sendPulse k := by
  have e := (exec_framed h).eq
  cases i with
  | setBits m => simp
  | clearBits m => simp
  | sendPulse k => simp
  | _ => exact absurd (by rw [e]; rfl) hne

/-- The writers of the timing engine (R32). -/
theorem exec_timer_writer (h : exec i s = .next t)
    (hne : (t.timerInit, t.detected, t.active, t.counterOk) ≠
      (s.timerInit, s.detected, s.active, s.counterOk)) :
    i = .timerInit := by
  have e := (exec_framed h).eq
  cases i with
  | timerInit => rfl
  | _ => exact absurd (by rw [e]; rfl) hne

/-- The writers of the pulser (R33). -/
theorem exec_pulser_writer (h : exec i s = .next t) (hne : t.pulser ≠ s.pulser) :
    (∃ k m, i = .pulserAcquire k m) ∨ ∃ k n, i = .pulserSetWidth k n := by
  have e := (exec_framed h).eq
  cases i with
  | pulserAcquire k m => simp
  | pulserSetWidth k n => simp
  | _ => exact absurd (by rw [e]; rfl) hne

/-- The writers of the direction registers (R34). -/
theorem exec_dir_writer (h : exec i s = .next t) (hne : t.dir ≠ s.dir) :
    (∃ m, i = .initOutputs m) ∨ ∃ m, i = .requestInputs m := by
  have e := (exec_framed h).eq
  cases i with
  | initOutputs m => simp
  | requestInputs m => simp
  | _ => exact absurd (by rw [e]; rfl) hne

/-- The writers of the gate field (R35). -/
theorem exec_clk_writer (h : exec i s = .next t) (hne : t.clk ≠ s.clk) :
    (∃ m, i = .initOutputs m) ∨ (∃ m, i = .requestInputs m) ∨ i = .readAll ∨
      (∃ m, i = .setBits m) ∨ (∃ m, i = .clearBits m) ∨ i = .flush ∨ ∃ k, i = .sendPulse k := by
  have e := (exec_framed h).eq
  cases i with
  | initOutputs m => simp
  | requestInputs m => simp
  | readAll => simp
  | setBits m => simp
  | clearBits m => simp
  | flush => simp
  | sendPulse k => simp
  | _ => exact absurd (by rw [e]; rfl) hne

/-! INIT and TIMER_INIT. -/

/-- INIT raises no fault (R102). -/
theorem init_faults (h : exec .init s = .next t) : (t.fault, t.faultInfo) = (s.fault, s.faultInfo) := by
  cases h
  split
  · rfl
  · have hw := (mapAll_spec (initWindows s.cfg) s).1
    simp only [initTable]
    split <;> (rw [hw.eq]; rfl)

/-- TIMER_INIT raises no fault (R172). -/
theorem timerInit_faults (h : exec .timerInit s = .next t) :
    (t.fault, t.faultInfo) = (s.fault, s.faultInfo) := by
  cases h
  split
  · rfl
  · simp [timerStartup, osHint, idFileRead]

/-- A populated bank table stays (R24). -/
theorem exec_mapped_mono (h : exec i s = .next t) (hm : s.mapped = true) : t.mapped = true := by
  by_cases hi : i = .init
  · subst hi
    cases h
    simp [hm]
  · rw [← hm]
    exact not_not.1 fun hne => hi (exec_mapped_writer h hne)

/-- A started timing engine stays (R32). -/
theorem exec_timerInit_mono (h : exec i s = .next t) (ht : s.timerInit = true) : t.timerInit = true := by
  by_cases hi : i = .timerInit
  · subst hi
    cases h
    simp [ht]
  · rw [← ht]
    exact not_not.1 fun hne => hi (exec_timer_writer h fun he => hne (congrArg Prod.fst he))

end

/-! The claimed sets (R27, R28). -/

/-- What a command does to `outputs` (R131). -/
theorem exec_outputs {i : Instr} {s t : State} (h : exec i s = .next t) :
    t.outputs = s.outputs ∨ ∃ m, i = .initOutputs m ∧ t.outputs = s.outputs ||| s.accepted m := by
  by_cases hne : t.outputs = s.outputs
  · exact .inl hne
  obtain ⟨m, rfl⟩ := exec_outputs_writer h hne
  refine (exec_cases h).elim (fun ⟨c, info, _, he⟩ => .inl (by rw [he]; rfl)) fun hr => ?_
  have hk := (claim_kept m true ⟨s, false⟩).outputs
  cases hr
  cases hc : claim m true ⟨s, false⟩ with
  | ok a r => rw [hc] at hk; exact .inr ⟨m, rfl, congrArg (· ||| _) hk⟩
  | raised u => rw [hc] at hk; exact .inl hk

/-- What a command does to `inputs` (R132). -/
theorem exec_inputs {i : Instr} {s t : State} (h : exec i s = .next t) :
    t.inputs = s.inputs ∨ ∃ m, i = .requestInputs m ∧ t.inputs = s.inputs ||| s.accepted m := by
  by_cases hne : t.inputs = s.inputs
  · exact .inl hne
  obtain ⟨m, rfl⟩ := exec_inputs_writer h hne
  refine (exec_cases h).elim (fun ⟨c, info, _, he⟩ => .inl (by rw [he]; rfl)) fun hr => ?_
  have hk := (claim_kept m false ⟨s, false⟩).inputs
  cases hr
  cases hc : claim m false ⟨s, false⟩ with
  | ok a r => rw [hc] at hk; exact .inr ⟨m, rfl, congrArg (· ||| _) hk⟩
  | raised u => rw [hc] at hk; exact .inl hk

theorem and_or_self_left (x y : Word) : x &&& (x ||| y) = x := by
  ext k
  simp +contextual

/-- An accepted line is in none of the claimed sets (R130). -/
theorem getLsbD_accepted {s : State} {m : Word} {k : Nat} (h : (s.accepted m).getLsbD k = true) :
    s.outputs.getLsbD k = false ∧ s.inputs.getLsbD k = false ∧ s.reserved.getLsbD k = false := by
  simp only [State.accepted, BitVec.getLsbD_and, BitVec.getLsbD_not, BitVec.getLsbD_or, Bool.and_eq_true,
    Bool.not_eq_true', Bool.or_eq_false_iff] at h
  tauto

/-- The accepted lines are disjoint from each claimed set (R130). -/
theorem accepted_disjoint (s : State) (m : Word) : s.accepted m &&& s.outputs = 0#32 ∧
    s.accepted m &&& s.inputs = 0#32 ∧ s.accepted m &&& s.reserved = 0#32 := by
  refine ⟨?_, ?_, ?_⟩
  all_goals
    apply BitVec.eq_of_getLsbD_eq
    intro k _
    have h := getLsbD_accepted (s := s) (m := m) (k := k)
    cases hk : (s.accepted m).getLsbD k <;> simp [hk, h]

/-- Disjoint claimed sets stay so under every command (R28). -/
theorem exec_claimsDisjoint {i : Instr} {s t : State} (h : exec i s = .next t) (hs : s.ClaimsDisjoint) :
    t.ClaimsDisjoint := by
  obtain ⟨hoi, hor, hir⟩ := hs
  rw [State.ClaimsDisjoint, exec_reserved h]
  rcases exec_outputs h with ho | ⟨m, rfl, ho⟩
  · rcases exec_inputs h with hi | ⟨m, -, hi⟩
    · rw [ho, hi]; exact ⟨hoi, hor, hir⟩
    · obtain ⟨hao, -, har⟩ := accepted_disjoint s m
      rw [BitVec.and_comm] at hao
      rw [ho, hi, BitVec.and_or_distrib_left, BitVec.and_or_distrib_right, hoi, hao, hir, har]
      exact ⟨rfl, hor, rfl⟩
  · rcases exec_inputs h with hi | ⟨m', hi, -⟩
    · obtain ⟨-, hai, har⟩ := accepted_disjoint s m
      rw [ho, hi, BitVec.and_or_distrib_right, BitVec.and_or_distrib_right, hoi, hai, hor, har]
      exact ⟨rfl, rfl, hir⟩
    · cases hi

/-! A step. -/

/-- What a step can do: wait, reject an illegal word, or run the next command and move the position. -/
theorem step_cases {s t : State} (h : step s = .next t) :
    t = s ∨ (∃ w, t = raise .illegalCommand w s) ∨
      ∃ i u, admission s = .run i ∧ exec i s = .next u ∧ t = advance u := by
  unfold step at h
  split at h
  · cases h
  · cases h
  · cases h; exact .inl rfl
  · cases h; exact .inr (.inl ⟨_, rfl⟩)
  · rename_i i ha
    cases hu : exec i s with
    | next u => rw [hu] at h; cases h; exact .inr (.inr ⟨i, u, ha, hu, rfl⟩)
    | fault f => rw [hu] at h; cases h
    | refused r => rw [hu] at h; cases h

/-- Bringing the position up to date writes nothing else (R23). -/
theorem advance_eq (s : State) : ∃ p, advance s = { s with position := p } := by
  unfold advance
  split
  · exact ⟨_, rfl⟩
  · exact ⟨s.position, rfl⟩

end Sys2Proof.Machine
end

section
/-! SUPPORT. The invariant (Safety.lean) through each command: what keeps it whatever the command, then the
claims, the sets and clears, and the rest. -/

namespace Sys2Proof.Machine

/-- What an entry of one polarity applies (R138). -/
theorem WcEntry.apply_eq_written (e : WcEntry) (x : Word) : e.apply x = written e.pol e.pending x :=
  Machine.apply_eq_written e.pending e.pol e.dirty e.mixed x

/-- The two events of one bank's flush, by its entry's polarity (R138). -/
theorem bankEvents_eq_written (cfg : Cfg) (e : Nat → WcEntry) (x : Nat → Word) :
    bankEvents cfg e x = fun b => [.regRead (cfg.bankBase b) (x b),
      .regWrite (cfg.bankBase b) (written (e b).pol (e b).pending (x b))] := by
  funext b
  simp only [bankEvents, WcEntry.apply_eq_written]

/-- The invariant does not speak of RESULT, the clock gate, the detection result, the trace, the time and the
draws. -/
theorem State.Inv.of_eq {s t : State} (hs : s.Inv)
    (h : t = { s with result := t.result, detected := t.detected, clk := t.clk, trace := t.trace,
                      time := t.time, env := t.env }) : t.Inv := by
  rw [h]
  exact ⟨hs.sized, hs.claims, hs.quiet, hs.pulser, hs.timer, hs.privileged, hs.precise, hs.position,
    hs.directions, hs.memo⟩

theorem setResult_inv {s : State} (hs : s.Inv) (v : Word) : (setResult v s).Inv := hs.of_eq rfl

theorem Waited.inv {s t : State} (h : Waited s t) (hs : s.Inv) : t.Inv := hs.of_eq (by rw [h.eq])

/-- A precise fault keeps the invariant (R214). -/
theorem raise_inv {s : State} (hs : s.Inv) {c : FaultCode} (hc : c.Precise) (info : BitVec 64) :
    (raise c info s).Inv where
  sized := hs.sized
  claims := hs.claims
  quiet := hs.quiet
  pulser := hs.pulser
  timer := hs.timer
  privileged := hs.privileged
  precise := ⟨hc.2, fun h0 => by
    have h1 := hc.1
    rw [show c.toByte = 0#8 from h0] at h1
    exact absurd h1 (by decide)⟩
  position := hs.position
  directions := hs.directions
  memo := hs.memo

/-- INIT populates the table only where every mapping succeeded, which takes privilege (R101, R102). -/
theorem initTable_inv {s : State} (hs : s.Inv) : (initTable s).Inv := by
  obtain ⟨hw, hcase⟩ := mapAll_spec (initWindows s.cfg) s
  have hu := hw.inv hs
  simp only [initTable]
  split
  · rename_i hok
    rcases hcase with ⟨-, -, hpriv⟩ | ⟨hno, -⟩
    · have hp : s.cfg.hostPrivileged = true := hpriv (by simp [initWindows])
      have hmapped : (setMapped (mapAll (initWindows s.cfg) s).2).Inv :=
        ⟨hu.sized, hu.claims, hu.quiet, hu.pulser, hu.timer, fun _ => by rw [hw.eq]; exact hp, hu.precise,
          hu.position, hu.directions, hu.memo⟩
      exact setResult_inv hmapped _
    · rw [hno] at hok; cases hok
  · exact setResult_inv hu _

theorem osHint_waited (kind : HintKind) (v : Int) (s : State) : Waited s (osHint kind v s) :=
  (setEnv_waited _ _).trans (emit_waited _ _)

/-- A started engine is on the forced profile, with the counter flag of R172. -/
theorem timerStartup_inv {s : State} (hs : s.Inv) : (timerStartup s).Inv := by
  have hstart : (startTimer (detection s.cfg s.env.idFile) (idFileRead s)).Inv :=
    ⟨hs.sized, hs.claims, hs.quiet, hs.pulser, fun _ => ⟨rfl, rfl⟩, hs.privileged, hs.precise, hs.position,
      hs.directions, hs.memo⟩
  unfold timerStartup
  exact (osHint_waited _ _ _).inv ((osHint_waited _ _ _).inv hstart)

/-- A pulser with one entry for each of its count (R33). -/
theorem setPulser_inv {s : State} (hs : s.Inv) {p : Pulser} (hp : p.widths.length = p.count.toNat) :
    (setPulser p s).Inv :=
  ⟨hs.sized, hs.claims, hs.quiet, by simpa [State.PulserSized] using hp, hs.timer, hs.privileged, hs.precise,
    hs.position, hs.directions, hs.memo⟩

/-! Claims (R130, R243). -/

/-- A direction bit after programming: the claim's direction at the programmed bits (R130). -/
theorem getLsbD_programDir (dirbit : Bool) (d p : Word) {k : Nat} (hk : k < 32) :
    (programDir dirbit d p).getLsbD k = if p.getLsbD k then dirbit else d.getLsbD k := by
  cases dirbit with
  | true =>
    simp only [programDir, if_true, BitVec.getLsbD_or]
    cases p.getLsbD k <;> simp
  | false =>
    simp only [programDir, Bool.false_eq_true, if_false, BitVec.getLsbD_and, BitVec.getLsbD_not, hk]
    cases p.getLsbD k <;> simp

/-- A claim leaves the direction of every line it accepted programmed, and that of every other line as it was
(R130, R243). -/
theorem claim_line_direction {s t : State} (h : s.cfg.wellFormed = true) {acc : Word} {dirbit : Bool}
    (hdir : ∀ b, t.dirOf b = programDir dirbit (s.dirOf b) (perBank s.cfg acc b)) {l : Line}
    (hl : l ∈ s.cfg.lineMap) : (t.dirOf l.bank).getLsbD l.pbit =
      if acc.getLsbD l.vbit then dirbit else (s.dirOf l.bank).getLsbD l.pbit := by
  rw [hdir, getLsbD_programDir _ _ _ (Cfg.line_range h hl).2.2, perBank_line h hl]

/-- The lines a claim accepts go to `outputs` or to `inputs`, by its direction, and to no other set (R131,
R132). -/
structure Granted (m : Word) (dirbit : Bool) (s t : State) : Prop where
  eq : t = { s with result := t.result, outputs := t.outputs, inputs := t.inputs, dir := t.dir, clk := t.clk,
                    trace := t.trace, time := t.time, env := t.env }
  outputs : t.outputs = if dirbit then s.outputs ||| s.accepted m else s.outputs
  inputs : t.inputs = if dirbit then s.inputs else s.inputs ||| s.accepted m
  dirLen : t.dir.length = s.dir.length
  dirOf : ∀ b, t.dirOf b = programDir dirbit (s.dirOf b) (perBank s.cfg (s.accepted m) b)

/-- INIT_OUTPUTS under a well-formed configuration (R131). -/
theorem initOutputs_granted {s t : State} {m : Word} (h : s.cfg.wellFormed = true) (hs : s.Sized)
    (hr : BodyRan s (.initOutputs m) t) : Granted m true s t := by
  obtain ⟨r, hok, heq, hlen, -, -, hdir, -⟩ := claim_ok (r := ⟨s, false⟩) h hs m true
  cases hr
  rw [hok]
  refine ⟨?_, ?_, ?_, hlen, hdir⟩
  all_goals
    simp only [Res.bind_ok, Res.final_ok]
    rw [heq]
    rfl

/-- REQUEST_INPUTS under a well-formed configuration (R132). -/
theorem requestInputs_granted {s t : State} {m : Word} (h : s.cfg.wellFormed = true) (hs : s.Sized)
    (hr : BodyRan s (.requestInputs m) t) : Granted m false s t := by
  obtain ⟨r, hok, heq, hlen, -, -, hdir, -⟩ := claim_ok (r := ⟨s, false⟩) h hs m false
  cases hr
  rw [hok]
  refine ⟨?_, ?_, ?_, hlen, hdir⟩
  all_goals
    simp only [Res.bind_ok, Res.final_ok]
    rw [heq]
    rfl

/-- A claim keeps the directions of claimed lines known: the lines it accepts were in neither set (R243). -/
theorem Granted.directionsKnown {s t : State} {m : Word} {dirbit : Bool} (hg : Granted m dirbit s t)
    (h : s.cfg.wellFormed = true) (hs : s.DirectionsKnown) : t.DirectionsKnown := by
  intro l hl
  rw [hg.eq] at hl
  obtain ⟨ho, hi⟩ := hs l hl
  rw [claim_line_direction h hg.dirOf hl, hg.outputs, hg.inputs]
  cases ha : (s.accepted m).getLsbD l.vbit with
  | true =>
    obtain ⟨hno, hni, -⟩ := getLsbD_accepted ha
    cases dirbit <;> simp [hno, hni]
  | false => cases dirbit <;> simpa [ha] using ⟨ho, hi⟩

/-- A claim keeps the invariant. -/
theorem Granted.inv {s t : State} {m : Word} {dirbit : Bool} (hg : Granted m dirbit s t)
    (h : s.cfg.wellFormed = true) (hs : s.Inv) (hdisj : t.ClaimsDisjoint) : t.Inv := by
  have hdirs := hg.directionsKnown h hs.directions
  obtain ⟨hwc, hdata, hdir⟩ := hs.sized
  have hlen := hg.dirLen.trans hdir
  refine ⟨?_, hdisj, ?_, ?_, ?_, ?_, ?_, ?_, hdirs, ?_⟩
  all_goals rw [hg.eq]
  · exact ⟨hwc, hdata, hlen⟩
  · exact hs.quiet
  · exact hs.pulser
  · exact hs.timer
  · exact hs.privileged
  · exact hs.precise
  · exact hs.position
  · exact hs.memo

/-! Reads, sets, clears and flushes (R133 to R139). -/

/-- READ_ALL moves nothing the invariant speaks of (R133). -/
theorem readAll_inv {s t : State} (h : s.cfg.wellFormed = true) (hs : s.Inv) (hr : BodyRan s .readAll t) :
    t.Inv := by
  cases hr
  rw [clockEnable_ok (r := ⟨s, false⟩) h, Res.bind_ok]
  set r1 : Run := ⟨emit (gateEvent s.cfg) (setClk (clkGateWord s.cfg) s), true⟩ with hr1
  have h1 : r1.st.Inv := hs.of_eq rfl
  obtain ⟨x, r2, hok, heq, -⟩ := readBanks_ok (r := r1) (bs := banksAscending r1.st.cfg) List.nodup_range
    (fun b hb => List.mem_range.1 hb) h rfl 0#32
  rw [hok]
  exact setResult_inv (h1.of_eq (by rw [heq])) _

/-- After a set or clear the memo is true: applying its pair again would change no latch (R136). -/
theorem memoApplied_of_written {t : State} {m : Word} {pol : Polarity} (hm : t.memo = some ⟨m, pol⟩)
    {d x : Nat → Word} (hd : ∀ b, t.dataOf b =
      if perBank t.cfg m b = 0#32 then d b else written pol (perBank t.cfg m b) (x b)) : t.MemoApplied := by
  intro m' hm' b _
  rw [hm, Option.toList_some, List.mem_singleton] at hm'
  subst hm'
  rw [hd]
  by_cases hp : perBank t.cfg m b = 0#32
  · simp only [hp, written_zero]
  · simp only [hp, if_false, written_written]

/-- A set or clear completes between commands and keeps the invariant (R134, R135). -/
theorem applyBits_inv {r : Run} (h : r.st.cfg.wellFormed = true) (hs : r.st.Inv) (m : Word) (pol : Polarity) :
    ∃ r', applyBits m pol r = .ok () r' ∧ r'.st.cfg = r.st.cfg ∧ r'.st.Inv := by
  by_cases hm : r.st.memo = some ⟨m, pol⟩
  · exact ⟨r, by simp only [applyBits, hm, if_true], rfl, hs⟩
  obtain ⟨x, r', hok, heq, hlen, -, -, -, hdata, -⟩ := applyBits_ok h hs.sized hs.quiet hm
  have hcfg : r'.st.cfg = r.st.cfg := by rw [heq]
  have hmemo : r'.st.MemoApplied :=
    memoApplied_of_written (by rw [heq]) (by rw [hcfg]; exact hdata)
  obtain ⟨hwc, hdl, hdir⟩ := hs.sized
  have hdl' := hlen.trans hdl
  refine ⟨r', hok, hcfg, ⟨?_, ?_, ?_, ?_, ?_, ?_, ?_, ?_, ?_, hmemo⟩⟩
  all_goals rw [heq]
  · exact ⟨hwc, hdl', hdir⟩
  · exact hs.claims
  · exact hs.quiet
  · exact hs.pulser
  · exact hs.timer
  · exact hs.privileged
  · exact hs.precise
  · exact hs.position
  · exact hs.directions

/-- Between commands no entry is dirty, and a flush does nothing (R139). -/
theorem flushStep_quiet {r : Run} (h : r.st.Quiet) : flushStep r = .ok () r := by
  have hclean : anyDirty r.st = false := by simp [anyDirty, wcOf_quiet h, WcEntry.clean]
  simp only [flushStep, hclean, Bool.false_eq_true, if_false]

/-- A pulse keeps the invariant: a clear, a wait and a set (R202). -/
theorem pulseBody_inv {s : State} (h : s.cfg.wellFormed = true) (hs : s.Inv) (m : Word) (d : Nat) :
    (pulseBody m d ⟨s, false⟩).final.Inv := by
  obtain ⟨r1, hok1, hcfg1, h1⟩ := applyBits_inv (r := ⟨s, false⟩) h hs m .clear
  have hw := sleepBody_waited d r1.st
  obtain ⟨r2, hok2, -, h2⟩ := applyBits_inv (r := { r1 with st := sleepBody d r1.st })
    (by rw [hw.eq, hcfg1]; exact h) (hw.inv h1) m .set
  rw [pulseBody, hok1, Res.bind_ok, hok2]
  exact h2

/-! Every command, and every step. -/

/-- Every command keeps the invariant under a well-formed configuration. -/
theorem exec_inv {i : Instr} {s t : State} (h : s.cfg.wellFormed = true) (hs : s.Inv)
    (ht : exec i s = .next t) : t.Inv := by
  rcases exec_cases ht with ⟨c, info, hc, rfl⟩ | hr
  · exact raise_inv hs hc info
  cases i with
  | init =>
    cases hr
    split
    · exact setResult_inv hs _
    · exact initTable_inv hs
  | initOutputs m => exact (initOutputs_granted h hs.sized hr).inv h hs (exec_claimsDisjoint ht hs.claims)
  | requestInputs m => exact (requestInputs_granted h hs.sized hr).inv h hs (exec_claimsDisjoint ht hs.claims)
  | readAll => exact readAll_inv h hs hr
  | setBits m =>
    cases hr
    obtain ⟨r, hok, -, hinv⟩ := applyBits_inv (r := ⟨s, false⟩) h hs m .set
    rw [hok]; exact hinv
  | clearBits m =>
    cases hr
    obtain ⟨r, hok, -, hinv⟩ := applyBits_inv (r := ⟨s, false⟩) h hs m .clear
    rw [hok]; exact hinv
  | flush =>
    cases hr
    rw [flushStep_quiet (r := ⟨s, false⟩) hs.quiet]; exact hs
  | timerInit =>
    cases hr
    split
    · exact setResult_inv hs _
    · exact setResult_inv (timerStartup_inv hs) _
  | sleepNanos ns => cases hr; exact (sleepBody_waited ns.toNat s).inv hs
  | jitterAllowance => cases hr; exact setResult_inv hs _
  | pulserAcquire k m => cases hr; exact setPulser_inv hs (List.length_replicate ..)
  | pulserSetWidth k ns =>
    cases hr with
    | pulserSetWidth _ _ hm hp hk =>
      exact setPulser_inv hs ((List.length_set ..).trans (hs.pulser _ (by simp [hp])))
  | sendPulse k => cases hr; exact pulseBody_inv h hs _ _

/-- What a state in which a command runs has passed (R10, R213, R215). -/
theorem admission_run {s : State} {i : Instr} (h : admission s = .run i) :
    s.cfg.wellFormed = true ∧ s.position < s.program.length := by
  unfold admission at h
  split at h
  · cases h
  rename_i hwf
  split at h
  · cases h
  split at h
  · cases h
  split at h
  · cases h
  rename_i w hw
  exact ⟨by simpa using hwf, (List.getElem?_eq_some_iff.1 hw).1⟩

/-- Moving on to a word of the sequence, or to its end, keeps the invariant (R23). -/
theorem advance_inv {s : State} (hs : s.Inv) (hp : s.position < s.program.length) : (advance s).Inv := by
  unfold advance
  split
  · exact ⟨hs.sized, hs.claims, hs.quiet, hs.pulser, hs.timer, hs.privileged, hs.precise, hp,
      hs.directions, hs.memo⟩
  · exact hs

end Sys2Proof.Machine
end

section
/-! CERTIFICATE. The statements of 10_state.md: the frames of the commands, the claimed sets, RESULT, the state
after reset, the invariant along a step, and the imprecise fault of a flush of mixed polarity. -/

namespace Sys2Proof

open Machine

/-- Settles O17: `exec` extends the history, and nothing else in a step writes what it speaks of. -/
theorem stepOnlyExtendsHistory : Obligations.StepOnlyExtendsHistory := by
  intro s t h
  rcases step_cases h with rfl | ⟨w, rfl⟩ | ⟨i, u, -, hu, rfl⟩
  · exact ⟨rfl, rfl, rfl, List.prefix_rfl, Nat.le_refl _⟩
  · exact ⟨rfl, rfl, rfl, List.prefix_rfl, Nat.le_refl _⟩
  · obtain ⟨p, hp⟩ := advance_eq u
    rw [hp]
    show u.cfg = _ ∧ u.program = _ ∧ u.phase0 = _ ∧ _ <+: u.trace ∧ _ ≤ u.time
    exact ⟨exec_cfg hu, exec_program hu, exec_phase0 hu, exec_trace hu, exec_time hu⟩

/-- Settles O18: a claimed set changes only by an OR with the accepted lines of its claim. -/
theorem claimedSetsOnlyGrow : Obligations.ClaimedSetsOnlyGrow := by
  refine ⟨fun i s t h => ⟨exec_outputs_writer h, exec_inputs_writer h, exec_reserved h, ?_, ?_⟩,
    fun cfg d => ⟨rfl, rfl, rfl⟩⟩
  · rcases exec_outputs h with ho | ⟨m, -, ho⟩
    · rw [ho, BitVec.and_self]
    · rw [ho, and_or_self_left]
  · rcases exec_inputs h with hi | ⟨m, -, hi⟩
    · rw [hi, BitVec.and_self]
    · rw [hi, and_or_self_left]

/-- After reset no line is claimed (R40). -/
theorem boot_claimsDisjoint (cfg : Cfg) (d : ResetDraws) : (State.boot cfg d).ClaimsDisjoint :=
  ⟨BitVec.zero_and, BitVec.zero_and, BitVec.zero_and⟩

/-- Settles O19: a claim grants only lines that no set holds. -/
theorem claimedSetsStayDisjoint : Obligations.ClaimedSetsStayDisjoint :=
  ⟨fun _ _ _ h hoi hor hir => exec_claimsDisjoint h ⟨hoi, hor, hir⟩, boot_claimsDisjoint⟩

/-- Settles O20, by the frame of each command. -/
theorem resultWrittenOnlyByItsCommands : Obligations.ResultWrittenOnlyByItsCommands := by
  refine ⟨fun i s t h hne => exec_result_writer h hne, fun _ _ => rfl, fun s hs => ?_, fun s v hs => ?_⟩
  · simp only [hostReadResult, hs]
  · simp only [hostReadResult, hs]

/-- Settles O21: the frame of each command read field by field; the two flags are only ever set. -/
theorem onlyNamedCommandsWriteEachField : Obligations.OnlyNamedCommandsWriteEachField := by
  intro i s t h
  refine ⟨exec_mapped_writer h, exec_mapped_mono h, fun hne => exec_latch_writer h (.inl hne),
    exec_memo_writer h, exec_timer_writer h, exec_timerInit_mono h, exec_pulser_writer h,
    fun hne => exec_latch_writer h (.inr hne), exec_dir_writer h, exec_clk_writer h, exec_position h,
    fun hne => ⟨?_, ?_⟩⟩
  · rintro rfl
    exact hne (init_faults h)
  · rintro rfl
    exact hne (timerInit_faults h)

/-- Settles O13: `State.boot` is the table; the per-bank draws are looked up by index. -/
theorem resetLeavesTheTable : Obligations.ResetLeavesTheTable := by
  intro cfg d
  have hdraw : ∀ (l : List Word), ∀ b < cfg.banks.length,
      ((List.range cfg.numBanks).map fun b => l.getD b 0#32)[b]? = some (l.getD b 0#32) := by
    intro l b hb
    rw [List.getElem?_map, List.getElem?_range (show b < cfg.numBanks from hb)]
    rfl
  exact ⟨rfl, rfl, rfl, rfl, rfl, rfl, rfl, rfl, rfl, rfl, rfl, rfl, rfl, rfl,
    fun b hb => ⟨hdraw d.data b hb, hdraw d.dir b hb⟩, rfl, rfl, rfl, rfl⟩

/-- The state after reset meets the invariant, whatever the configuration and the draws (R40). -/
theorem boot_inv (cfg : Cfg) (d : ResetDraws) : (State.boot cfg d).Inv where
  sized := by simp [State.Sized, State.boot]
  claims := boot_claimsDisjoint cfg d
  quiet := fun _ he => List.eq_of_mem_replicate he
  pulser := by simp [State.PulserSized, State.boot]
  timer := by simp [State.TimerChosen, State.boot]
  privileged := by simp [State.MappedPrivileged, State.boot]
  precise := ⟨Nat.zero_le 6, fun _ => rfl⟩
  position := Nat.le_refl _
  directions := by simp [State.DirectionsKnown, State.boot]
  memo := by simp [State.MemoApplied, State.boot]

/-- Settles O14: `boot_inv`, and the fixture's configuration evaluated. -/
theorem resetMeetsTheInvariant : Obligations.ResetMeetsTheInvariant :=
  ⟨boot_inv, boot_inv _ _, by decide, by decide⟩

/-- Settles O15: a waiting step changes nothing, an illegal word raises a precise fault, and the command that
runs keeps the invariant before the position moves. -/
theorem stepKeepsTheInvariant : Obligations.StepKeepsTheInvariant := by
  intro s t hs h
  rcases step_cases h with rfl | ⟨w, rfl⟩ | ⟨i, u, ha, hu, rfl⟩
  · exact hs
  · exact raise_inv hs (by decide) w
  · obtain ⟨hwf, hpos⟩ := admission_run ha
    exact advance_inv (exec_inv hwf hs hu) (by rw [exec_position hu, exec_program hu]; exact hpos)

/-- Settles O41: `flushStep_mixed` with the fault raised on the state it leaves. -/
theorem flushOfMixedPolarityFaults : Obligations.FlushOfMixedPolarityFaults := by
  intro s b hwf hs hm hb hd hx hpre
  obtain ⟨x, u, hflush, hframe, hdir, hclk, hread, hdata, hwc, htrace⟩ :=
    flushStep_mixed (r := ⟨s, false⟩) hwf hs hb hd hx hpre
  refine ⟨raise .mixedPolarity (BitVec.ofNat 64 b) u, x, ?_, ?_, hframe.time,
    fun c hc hdc => ⟨hread c hc hdc, ?_, ?_⟩, fun c hc hdc => ⟨?_, ?_⟩, fun c hc => ⟨?_, ?_⟩, hclk, ?_⟩
  · show needMapped .flush s (runBody flushStep s) = _
    rw [needMapped_true hm, runBody_eq, hflush, Res.final_raised]
  · have e := hframe.eq
    rw [hdir] at e
    rw [e]
    rfl
  · exact (hdata c).trans (by rw [if_pos ⟨hc, hdc⟩, WcEntry.apply_eq_written])
  · exact (hwc c).trans (if_pos ⟨hc, hdc⟩)
  · exact (hdata c).trans (by simp [hdc])
  · exact (hwc c).trans (by simp [hdc])
  · exact (hdata c).trans (by simp [Nat.not_lt.2 hc])
  · exact (hwc c).trans (by simp [Nat.not_lt.2 hc])
  · rw [bankEvents_eq_written] at htrace
    exact htrace

end Sys2Proof
end

section
/-! SUPPORT. A command word in transport (R63, D40): its eight bytes from low to high give back the word. -/

namespace Sys2Proof

/-- The bytes from byte `k` on stand for the number the word holds from bit `8k` on. -/
theorem littleEndian_map_byteOf (w : CmdWord) (n k : Nat) :
    littleEndian ((List.range' k n).map (byteOf w)) = w.toNat / 2 ^ (8 * k) % 256 ^ n := by
  induction n generalizing k with
  | zero => simp [littleEndian, Nat.mod_one]
  | succ n ih =>
    have hbyte : (byteOf w k).toNat = w.toNat / 2 ^ (8 * k) % 256 := by
      simp [byteOf, Nat.shiftRight_eq_div_pow]
    have hrest : w.toNat / 2 ^ (8 * (k + 1)) = w.toNat / 2 ^ (8 * k) / 256 := by
      rw [Nat.div_div_eq_div_mul, Nat.mul_succ, Nat.pow_add]
    rw [List.range'_succ, List.map_cons, littleEndian, ih, hbyte, hrest, ← Nat.mod_mul, ← Nat.pow_succ']

@[simp] theorem length_bytesOf (w : CmdWord) : (bytesOf w).length = 8 := by simp [bytesOf]

/-- The eight bytes stand for the word. -/
theorem littleEndian_bytesOf (w : CmdWord) : littleEndian (bytesOf w) = w.toNat := by
  rw [bytesOf, List.range_eq_range', littleEndian_map_byteOf, Nat.mul_zero, Nat.pow_zero, Nat.div_one]
  exact Nat.mod_eq_of_lt w.isLt

/-- The decoder takes the eight bytes of a word as that word and leaves nothing over. -/
theorem decodeBytes_bytesOf (w : CmdWord) : decodeBytes (bytesOf w) = some (decode w, []) := by
  have htake : (bytesOf w).take 8 = bytesOf w := List.take_of_length_le (by simp)
  have hdrop : (bytesOf w).drop 8 = [] := List.drop_of_length_le (by simp)
  rw [decodeBytes, if_neg (by simp), htake, hdrop, littleEndian_bytesOf, BitVec.ofNat_toNat,
    BitVec.setWidth_eq]

/-- Byte `k` in transport (R63). -/
theorem getElem?_bytesOf (w : CmdWord) {k : Nat} (hk : k < 8) : (bytesOf w)[k]? = some (byteOf w k) := by
  rw [bytesOf, List.getElem?_map, List.getElem?_range hk, Option.map_some]

end Sys2Proof
end

section
/-! SUPPORT. Windows (R52, R55): a 4-aligned word lies in its page, and where a window starts. -/

namespace Sys2Proof

/-- The base of an entry of the bank table (R25). -/
theorem Cfg.bankBase_of_getElem? {cfg : Cfg} {b : Nat} {k : BankCfg} (h : cfg.banks[b]? = some k) :
    cfg.bankBase b = k.base := by
  simp [Cfg.bankBase, h]

namespace Machine

/-- A 4-aligned address has a whole word left in its page, since 4 divides the page size (R10 clause 7). -/
theorem aligned_word_in_page {cfg : Cfg} (h : cfg.wellFormed = true) {a : Nat} (ha : a % 4 = 0) :
    a % cfg.pageSize + 4 ≤ cfg.pageSize := by
  obtain ⟨k, hk, hk3⟩ := Cfg.pageSize_pow h
  have hdvd : 4 ∣ cfg.pageSize := hk ▸ pow_dvd_pow 2 (show 2 ≤ k by omega)
  have hoff : a % cfg.pageSize % 4 = 0 := (Nat.mod_mod_of_dvd a hdvd).trans ha
  have hlt : a % cfg.pageSize < cfg.pageSize := Nat.mod_lt a (hk ▸ Nat.two_pow_pos k)
  omega

/-- A window starts at the page that contains its address (R52). -/
theorem windowAt_page {cfg : Cfg} (h : cfg.wellFormed = true) (t : Target) (a : Nat) (m : Mode) :
    (windowAt cfg t a m).page = a / cfg.pageSize * cfg.pageSize := by
  have hbase : (windowAt cfg t a m).page + (windowAt cfg t a m).off = a := windowAt_paddr cfg t a m 0
  have hdiv := Nat.div_add_mod' a cfg.pageSize
  rw [windowAt_off h] at hbase
  omega

/-- Both windows of a bank are windows of its base (R54). -/
theorem exists_windowAt_of_bankWindow {cfg : Cfg} {b : Nat} {w : Window}
    (h : w ∈ [readWindow cfg b, writeWindow cfg b]) : ∃ m, w = windowAt cfg (.bank b) (cfg.bankBase b) m := by
  rcases List.mem_pair.1 h with rfl | rfl
  · exact ⟨.read, rfl⟩
  · exact ⟨.write, rfl⟩

/-- Both windows of the clock-control register are windows of its address (R54). -/
theorem exists_windowAt_of_clockWindow {cfg : Cfg} {w : Window}
    (h : w ∈ [clockReadWindow cfg, clockWriteWindow cfg]) : ∃ m, w = windowAt cfg .clock cfg.clkAddr m := by
  rcases List.mem_pair.1 h with rfl | rfl
  · exact ⟨.read, rfl⟩
  · exact ⟨.write, rfl⟩

theorem Window.covers_iff (w : Window) (idx : Nat) : w.covers idx = true ↔ w.off + 4 * idx + 4 ≤ w.length :=
  decide_eq_true_iff

end Machine
end Sys2Proof
end

section
/-! SUPPORT. Device accesses (R57 to R62): the checks that raise, the register a write replaces, the value and
the draws of a read, and the bits of the gate field. -/

namespace Sys2Proof.Machine

/-! The checks of R61 and R62. -/

/-- A read against the mode of its window or outside it (R61). -/
theorem devRead_of_windowFault {w : Window} {idx : Nat} (r : Run)
    (h : w.mode = .write ∨ w.off + 4 * idx + 4 > w.length) :
    devRead w idx r = raiseAt .windowAccess (w.paddr idx) r := by
  rcases h with hmode | hout
  · simp [devRead, hmode]
  · have hcov : w.covers idx = false := decide_eq_false (Nat.not_le.2 hout)
    simp [devRead, hcov]

/-- A write against the mode of its window or outside it (R62). -/
theorem devWrite_of_windowFault {w : Window} {idx : Nat} (v : Word) (r : Run)
    (h : w.mode = .read ∨ w.off + 4 * idx + 4 > w.length) :
    devWrite w idx v r = raiseAt .windowAccess (w.paddr idx) r := by
  rcases h with hmode | hout
  · simp [devWrite, hmode]
  · have hcov : w.covers idx = false := decide_eq_false (Nat.not_le.2 hout)
    simp [devWrite, hcov]

theorem Window.isBank_of_target {w : Window} {b : Nat} (h : w.target = .bank b) : w.isBank = true := by
  simp only [Window.isBank, h]

/-- A bank read inside its window before the clock gate (R60, R61). -/
theorem devRead_of_ungated {w : Window} {idx : Nat} {r : Run} (hbank : w.isBank = true) (hg : r.gated = false)
    (hcov : w.covers idx = true) (hmode : w.mode = .read) :
    devRead w idx r = raiseAt .clockNotEnabled (w.paddr idx) r := by
  simp [devRead, hbank, hg, hcov, hmode]

/-- A bank write inside its window before the clock gate (R60, R62). -/
theorem devWrite_of_ungated {w : Window} {idx : Nat} {r : Run} (v : Word) (hbank : w.isBank = true)
    (hg : r.gated = false) (hcov : w.covers idx = true) (hmode : w.mode = .write) :
    devWrite w idx v r = raiseAt .clockNotEnabled (w.paddr idx) r := by
  simp [devWrite, hbank, hg, hcov, hmode]

/-! The registers of a bank (R56, R57). -/

theorem setData_dataOf_same {s : State} {b : Nat} (hb : b < s.data.length) (v : Word) :
    (setData b v s).dataOf b = v := getD_set_eq _ _ _ _ hb

theorem setData_dataOf_ne {b c : Nat} (hc : c ≠ b) (v : Word) (s : State) :
    (setData b v s).dataOf c = s.dataOf c := getD_set_ne _ _ _ hc.symm

theorem setDir_dirOf_same {s : State} {b : Nat} (hb : b < s.dir.length) (v : Word) :
    (setDir b v s).dirOf b = v := getD_set_eq _ _ _ _ hb

theorem setDir_dirOf_ne {b c : Nat} (hc : c ≠ b) (v : Word) (s : State) :
    (setDir b v s).dirOf c = s.dirOf c := getD_set_ne _ _ _ hc.symm

@[simp] theorem emit_dataOf (e : Event) (s : State) (b : Nat) : (emit e s).dataOf b = s.dataOf b := rfl

@[simp] theorem emit_dirOf (e : Event) (s : State) (b : Nat) : (emit e s).dirOf b = s.dirOf b := rfl

/-! A data read (R58). -/

theorem regValue_data_latch {s : State} (h : s.cfg.dataReadMode = .latch) (b : Nat) :
    regValue (.bank b) 0 s = s.dataOf b := by
  simp [regValue, h]

theorem regValue_data_pins {s : State} (h : s.cfg.dataReadMode = .pinForInputs) (b : Nat) :
    regValue (.bank b) 0 s = (s.dataOf b &&& s.dirOf b) ||| (s.env.pinLevels &&& ~~~s.dirOf b) := by
  simp [regValue, h]

theorem regReadEnv_data_pins {s : State} (h : s.cfg.dataReadMode = .pinForInputs) (b : Nat) :
    regReadEnv (.bank b) 0 s = s.env.tookPinLevels := by
  simp [regReadEnv, h]

/-- Pin levels that the environment lists are the first of the list (log 6). -/
theorem Env.pinLevels_of_cons {e : Env} {p : Word} {rest : List Word} (h : e.pins = p :: rest) :
    e.pinLevels = p := by
  simp [Env.pinLevels, h]

/-- Listed pin levels are used up by the read that takes them (R58, log 6). -/
theorem Env.tookPinLevels_pins_of_cons {e : Env} {p : Word} {rest : List Word} (h : e.pins = p :: rest) :
    e.tookPinLevels.pins = rest := by
  simp [Env.tookPinLevels, h]

@[simp] theorem Env.tookElapse_pins (e : Env) : e.tookElapse.pins = e.pins := rfl

/-! The gate field (R59, R105). -/

/-- A bit of the gate field is written where the upper half of the word enables it (R59). -/
theorem getLsbD_gateField (clk : BitVec 16) (v : Word) {i : Nat} (hi : i < 16) :
    (gateField clk v).getLsbD i = if v.getLsbD (16 + i) then v.getLsbD i else clk.getLsbD i := by
  simp only [gateField, BitVec.getLsbD_or, BitVec.getLsbD_and, BitVec.getLsbD_not, BitVec.getLsbD_extractLsb',
    hi, decide_true, Bool.true_and, Nat.zero_add]
  cases v.getLsbD (16 + i) <;> simp

/-- The lower half of the clock gate's word (R105). -/
theorem getLsbD_clkGateWord_value (cfg : Cfg) {i : Nat} (hi : i < 16) :
    (clkGateWord cfg).getLsbD i = cfg.clkValue.getLsbD i := by
  simp [clkGateWord, hi, show i < 32 by omega]

/-- The upper half of the clock gate's word (R105): CLK_VALUE has no bit there. -/
theorem getLsbD_clkGateWord_mask (cfg : Cfg) {i : Nat} (hi : i < 16) :
    (clkGateWord cfg).getLsbD (16 + i) = cfg.clkMask.getLsbD i := by
  simp [clkGateWord, show 16 + i < 32 by omega]

end Sys2Proof.Machine
end

section
/-! CERTIFICATE. The statements of 20_memory.md: windows, device accesses and their checks, the clock gate, and
the byte order of a command word in transport. -/

namespace Sys2Proof

open Machine

/-- Settles O6, by the number the bytes stand for. -/
theorem commandWordsTravelLittleEndian : Obligations.CommandWordsTravelLittleEndian :=
  fun w => ⟨decodeBytes_bytesOf w, fun _ hk => getElem?_bytesOf w hk⟩

/-- Settles O23: `windowAt` says where every window lies; a bank's two windows and the clock
register's two are each one of it. -/
theorem windowsCoverTheirRegisters : Obligations.WindowsCoverTheirRegisters := by
  intro cfg hwf
  refine ⟨fun t a m ha => ⟨windowAt_page hwf t a m, windowAt_off hwf t a m,
    windowAt_length hwf t a m (aligned_word_in_page hwf ha), windowAt_paddr cfg t a m⟩, ?_, ?_⟩
  · intro b k hk
    have hb : b < cfg.numBanks := (List.getElem?_eq_some_iff.1 hk).1
    have hbase := Cfg.bankBase_of_getElem? hk
    refine ⟨hbase, fun w hw => ?_⟩
    obtain ⟨m, rfl⟩ := exists_windowAt_of_bankWindow hw
    exact ⟨rfl, (windowAt_paddr ..).trans hbase, (windowAt_paddr ..).trans (by rw [hbase]),
      bankWindow_covers hwf hb _ m (Nat.zero_le 1), bankWindow_covers hwf hb _ m (Nat.le_refl 1)⟩
  · intro w hw
    obtain ⟨m, rfl⟩ := exists_windowAt_of_clockWindow hw
    exact ⟨rfl, windowAt_paddr .., clockWindow_covers hwf m⟩

/-- Settles O25: `devWrite_bank` for word 0 and for word 1. -/
theorem bankWritesReplaceTheRegister : Obligations.BankWritesReplaceTheRegister := by
  intro r b v hwf ⟨_, hdata, hdir⟩ hg hb
  exact ⟨⟨_, devWrite_bank hwf hb hg (Nat.zero_le 1) v, setData_dataOf_same (hdata ▸ hb) v,
      fun _ hc => setData_dataOf_ne hc v _, rfl, rfl, rfl⟩,
    ⟨_, devWrite_bank hwf hb hg (Nat.le_refl 1) v, setDir_dirOf_same (hdir ▸ hb) v,
      fun _ hc => setDir_dirOf_ne hc v _, rfl, rfl, rfl⟩⟩

/-- Settles O26: `devRead_bank` for word 1 and for word 0, and the value of a data read in each mode. -/
theorem bankReadsFollowTheReadMode : Obligations.BankReadsFollowTheReadMode := by
  intro r b hwf hg hb
  refine ⟨⟨_, devRead_bank hwf hb hg (Nat.le_refl 1), rfl, rfl, rfl, rfl⟩,
    ⟨_, _, devRead_bank hwf hb hg (Nat.zero_le 1), rfl, rfl, rfl, rfl, ?_, ?_, ?_⟩⟩
  · exact fun hmode => regValue_data_latch hmode b
  · exact fun hmode => ⟨_, regValue_data_pins hmode b⟩
  · intro hmode pins rest hpins
    constructor
    · rw [regValue_data_pins hmode, Env.pinLevels_of_cons hpins]
    · rw [emit_env, Env.tookElapse_pins, setEnv_env, regReadEnv_data_pins hmode,
        Env.tookPinLevels_pins_of_cons hpins]

/-- Settles O27: the gate's word half by half, and `gateField` bit by bit. -/
theorem clockGateWritesBitByBit : Obligations.ClockGateWritesBitByBit := by
  refine ⟨fun cfg => ⟨rfl, fun _ hi => ⟨getLsbD_clkGateWord_value cfg hi, getLsbD_clkGateWord_mask cfg hi⟩⟩,
    fun r hwf => ⟨_, clockEnable_ok hwf, fun i hi => ?_, rfl, rfl, rfl⟩,
    fun r v hwf => ⟨_, _, devWrite_clock hwf v, fun _ hi => getLsbD_gateField _ v hi, rfl, rfl, rfl⟩⟩
  rw [emit_clk, setClk_clk, getLsbD_gateField _ _ hi, getLsbD_clkGateWord_mask _ hi,
    getLsbD_clkGateWord_value _ hi]

/-- Settles O24: the window's check comes before the gate's. -/
theorem accessChecksRaise : Obligations.AccessChecksRaise := by
  intro w idx v r
  refine ⟨fun h => devRead_of_windowFault r h, fun h => devWrite_of_windowFault v r h,
    fun b hb hg hin => ⟨fun hmode => ?_, fun hmode => ?_⟩⟩
  · exact devRead_of_ungated (Window.isBank_of_target hb) hg ((w.covers_iff idx).2 hin) hmode
  · exact devWrite_of_ungated v (Window.isBank_of_target hb) hg ((w.covers_iff idx).2 hin) hmode

end Sys2Proof
end

section
/-! SUPPORT. The decoder (R83, R85) and the encoder (R81): which word decodes to which command, and the mask
and match pairs of R84 by the fields. -/

namespace Sys2Proof

/-- The word of a command, field by field (R81). -/
theorem encode_eq_iff_fields {i : Instr} {w : CmdWord} : encode i = w ↔
    opField w = opcode i ∧ idxField w = idxOf i ∧ rsvField w = 0#16 ∧ argField w = argOf i := by
  constructor
  · rintro rfl
    simp [encode]
  · rintro ⟨hop, hidx, hrsv, harg⟩
    rw [encode, ← hop, ← hidx, ← harg, assembleWord_fields hrsv]

/-- Each command's word is accepted by its row (R84). -/
theorem rowAccepts (i : Instr) : Laws.RowAccepts.Statement i := by
  cases i with
  | init => exact Laws.RowAccepts.init
  | initOutputs mask => exact Laws.RowAccepts.initOutputs mask
  | requestInputs mask => exact Laws.RowAccepts.requestInputs mask
  | readAll => exact Laws.RowAccepts.readAll
  | setBits mask => exact Laws.RowAccepts.setBits mask
  | clearBits mask => exact Laws.RowAccepts.clearBits mask
  | flush => exact Laws.RowAccepts.flush
  | timerInit => exact Laws.RowAccepts.timerInit
  | sleepNanos ns => exact Laws.RowAccepts.sleepNanos ns
  | jitterAllowance => exact Laws.RowAccepts.jitterAllowance
  | pulserAcquire count mask => exact Laws.RowAccepts.pulserAcquire count mask
  | pulserSetWidth idx ns => exact Laws.RowAccepts.pulserSetWidth idx ns
  | sendPulse idx => exact Laws.RowAccepts.sendPulse idx

/-- The decoder answers the command that `op` selects, when the zero fields of its format are zero (R85). -/
theorem decode_eq_command_iff {w : CmdWord} {i : Instr} : decode w = .command i ↔
    commandOf (opField w) (idxField w) (argField w) = some i ∧ (formatOfCommand i).fits w = true := by
  cases hc : commandOf (opField w) (idxField w) (argField w) with
  | none => simp [decode, hc]
  | some j =>
    have hf : formatOf (opField w) = some (formatOfCommand j) := (commandOf_some hc).2.1
    have hdecode : decode w = if (formatOfCommand j).fits w then .command j else .illegal .reservedNotZero := by
      simp only [decode, hc, hf]
    rw [hdecode, Option.some_inj]
    split
    next hfit => rw [Decoded.command.injEq]; exact ⟨fun h => ⟨h, h ▸ hfit⟩, And.left⟩
    next hfit => exact ⟨nofun, fun ⟨h, hi⟩ => absurd (h ▸ hi) hfit⟩

/-- The operands of a command stand in the fields of a word that selects it and fits its format: the fields
the format leaves out are zero in both (R82, R84). -/
theorem fields_of_fits {w : CmdWord} {i : Instr}
    (hc : commandOf (opField w) (idxField w) (argField w) = some i)
    (hfit : (formatOfCommand i).fits w = true) :
    idxField w = idxOf i ∧ rsvField w = 0#16 ∧ argField w = argOf i := by
  obtain ⟨-, -, hops⟩ := commandOf_some hc
  cases hform : formatOfCommand i <;>
    simp only [hform, Format.fits, Bool.and_eq_true, beq_iff_eq] at hops hfit <;>
    simp [hops, hfit]

/-- A word decodes to a command exactly when it is that command's word (R81, R85). -/
theorem decode_eq_command_iff_encode {w : CmdWord} {i : Instr} : decode w = .command i ↔ encode i = w := by
  rw [decode_eq_command_iff]
  constructor
  · rintro ⟨hc, hfit⟩
    exact encode_eq_iff_fields.2 ⟨(commandOf_some hc).1, fields_of_fits hc hfit⟩
  · rintro rfl
    obtain ⟨-, hfit, hop, hidx, -, harg⟩ := rowAccepts i
    exact ⟨by rw [hop, hidx, harg, commandOf_fields], hfit⟩

/-- `op` alone fixes the format (R84). -/
theorem formatOfCommand_congr {c d : Instr} (h : opcode c = opcode d) :
    formatOfCommand c = formatOfCommand d := by
  have hf := congrArg formatOf h
  rwa [formatOf_opcode, formatOf_opcode, Option.some_inj] at hf

/-- The `op` of a command selects a command of the same `op`, whatever the operand fields hold (R83). -/
theorem exists_commandOf_opcode (c : Instr) (idx : BitVec 8) (arg : Word) :
    ∃ i, commandOf (opcode c) idx arg = some i ∧ opcode i = opcode c := by
  have hne : commandOf (opcode c) idx arg ≠ none := fun h => by
    have := (formatOf_eq_none_iff (opcode c) idx arg).2 h
    simp at this
  obtain ⟨i, hi⟩ := Option.ne_none_iff_exists'.1 hne
  exact ⟨i, hi, (commandOf_some hi).1.symm⟩

/-- A command's pair holds of a word with its `op` whose zero fields are zero (R84). -/
theorem mask_iff_opcode_fits {w : CmdWord} {c : Instr} :
    w &&& (formatOfCommand c).maskBits = matchBits c ↔
      opField w = opcode c ∧ (formatOfCommand c).fits w = true := mask_iff_fits _ _ _

/-- A command's pair holds of the words that decode to a command of its `op`, and of no other (R84, R85). -/
theorem mask_iff_decode {w : CmdWord} {c : Instr} :
    w &&& (formatOfCommand c).maskBits = matchBits c ↔ ∃ i, decode w = .command i ∧ opcode i = opcode c := by
  rw [mask_iff_opcode_fits]
  constructor
  · rintro ⟨hop, hfit⟩
    obtain ⟨i, hi, hic⟩ := exists_commandOf_opcode c (idxField w) (argField w)
    exact ⟨i, decode_eq_command_iff.2 ⟨hop ▸ hi, formatOfCommand_congr hic ▸ hfit⟩, hic⟩
  · rintro ⟨i, hi, hic⟩
    obtain ⟨hc, hfit⟩ := decode_eq_command_iff.1 hi
    exact ⟨(commandOf_some hc).1.trans hic, formatOfCommand_congr hic ▸ hfit⟩

end Sys2Proof
end

section
/-! SUPPORT. An illegal word in the command channel (R85, R215 check 2). -/

namespace Sys2Proof.Machine

/-- R215: with check 1 passed, a next word that is no command fails check 2. -/
theorem admission_of_illegal {s : State} {w : CmdWord} {why : Illegal} (hwf : s.cfg.wellFormed = true)
    (hspace : s.cfg.inAddressSpace = true) (hfault : s.fault = 0#8)
    (hfetch : s.program[s.position]? = some w) (hdecode : decode w = .illegal why) :
    admission s = .illegal w := by
  simp [admission, fetch, hwf, hspace, hfault, hfetch, hdecode]

/-- An illegal word raises ILLEGAL_COMMAND (R85). -/
theorem step_of_admission_illegal {s : State} {w : CmdWord} (h : admission s = .illegal w) :
    step s = .next (raise .illegalCommand w s) := by
  simp only [step, h]

end Sys2Proof.Machine
end

section
/-! SUPPORT. The assembler (R88, R89): operands that fit their field and operands that do not, the word of
operands written as numbers, and the one line of a name. -/

namespace Sys2Proof.Machine

theorem operand32_of_lt {n : Nat} (h : n < 2 ^ 32) : operand32 n = some (BitVec.ofNat 32 n) := if_pos h

theorem operand32_of_ge {n : Nat} (h : 2 ^ 32 ≤ n) : operand32 n = none := if_neg (Nat.not_lt.2 h)

theorem operand8_of_lt {n : Nat} (h : n < 2 ^ 8) : operand8 n = some (BitVec.ofNat 8 n) := if_pos h

theorem operand8_of_ge {n : Nat} (h : 2 ^ 8 ≤ n) : operand8 n = none := if_neg (Nat.not_lt.2 h)

/-- A number that fits a field is the same number in the whole word. -/
theorem setWidth_ofNat_of_lt {v n : Nat} (h : n < 2 ^ v) :
    (BitVec.ofNat v n).setWidth 64 = BitVec.ofNat 64 n := by
  apply BitVec.eq_of_toNat_eq
  simp [Nat.mod_eq_of_lt h]

/-- R88: the word of a command whose `idx` and `arg` are written as numbers. -/
theorem encode_of_operands {i : Instr} {k m : Nat} (hk : k < 2 ^ 8) (hm : m < 2 ^ 32)
    (hidx : idxOf i = BitVec.ofNat 8 k) (harg : argOf i = BitVec.ofNat 32 m) :
    encode i = (BitVec.ofNat 64 m <<< 32) ||| (BitVec.ofNat 64 k <<< 8) ||| matchBits i := by
  rw [encode, assembleWord, hidx, harg, setWidth_ofNat_of_lt hk, setWidth_ofNat_of_lt hm, matchBits]

section Lines

variable {cfg : Cfg} {a : Asm} {k m : Nat}

/-- R88: a line with an `arg`. -/
theorem assembleLine_arg {f : Word → Instr} (h : assemble cfg a = (operand32 m).map f) (hm : m < 2 ^ 32)
    (hidx : idxOf (f (BitVec.ofNat 32 m)) = 0#8) (harg : argOf (f (BitVec.ofNat 32 m)) = BitVec.ofNat 32 m) :
    assembleLine cfg a = some ((BitVec.ofNat 64 m <<< 32) ||| matchBits (f (BitVec.ofNat 32 m))) := by
  rw [assembleLine, h, operand32_of_lt hm, Option.map_some, Option.map_some,
    encode_of_operands (Nat.two_pow_pos 8) hm hidx harg]
  simp

/-- R88: a line with an `idx`. -/
theorem assembleLine_idx {f : BitVec 8 → Instr} (h : assemble cfg a = (operand8 k).map f) (hk : k < 2 ^ 8)
    (hidx : idxOf (f (BitVec.ofNat 8 k)) = BitVec.ofNat 8 k) (harg : argOf (f (BitVec.ofNat 8 k)) = 0#32) :
    assembleLine cfg a = some ((BitVec.ofNat 64 k <<< 8) ||| matchBits (f (BitVec.ofNat 8 k))) := by
  rw [assembleLine, h, operand8_of_lt hk, Option.map_some, Option.map_some,
    encode_of_operands hk (Nat.two_pow_pos 32) hidx harg]
  simp

/-- R88: a line with an `idx` and an `arg`. -/
theorem assembleLine_idx_arg {f : BitVec 8 → Word → Instr}
    (h : assemble cfg a = (operand8 k).bind fun k' => (operand32 m).map (f k')) (hk : k < 2 ^ 8) (hm : m < 2 ^ 32)
    (hidx : idxOf (f (BitVec.ofNat 8 k) (BitVec.ofNat 32 m)) = BitVec.ofNat 8 k)
    (harg : argOf (f (BitVec.ofNat 8 k) (BitVec.ofNat 32 m)) = BitVec.ofNat 32 m) :
    assembleLine cfg a = some ((BitVec.ofNat 64 m <<< 32) ||| (BitVec.ofNat 64 k <<< 8) |||
      matchBits (f (BitVec.ofNat 8 k) (BitVec.ofNat 32 m))) := by
  rw [assembleLine, h, operand8_of_lt hk, Option.bind_some, operand32_of_lt hm, Option.map_some, Option.map_some,
    encode_of_operands hk hm hidx harg]

end Lines

/-- R10 clause 3: the names of the map are pairwise distinct. -/
theorem names_nodup {cfg : Cfg} (h : cfg.wellFormed = true) : (cfg.lineMap.map Line.name).Nodup := by
  obtain ⟨-, -, hlines, -⟩ := Cfg.wellFormed_clauses h
  rw [((Cfg.linesOk_iff cfg).1 hlines).1]
  decide

/-- A line is the only one of the map with its name (R10 clause 3). -/
theorem filter_name {cfg : Cfg} (h : cfg.wellFormed = true) {l : Line} (hl : l ∈ cfg.lineMap) :
    (cfg.lineMap.filter fun x => x.name == l.name) = [l] := by
  have hname : ∀ x ∈ cfg.lineMap, (x.name == l.name) = (x == l) := fun x hx => by
    rw [Bool.eq_iff_iff, beq_iff_eq, beq_iff_eq]
    exact ⟨List.inj_on_of_nodup_map (names_nodup h) hx hl, congrArg _⟩
  rw [List.filter_congr hname, List.filter_beq,
    List.count_eq_one_of_mem (names_nodup h).of_map hl, List.replicate_one]

/-- The mask of a line of the map (R89). -/
theorem lineMask_of_mem {cfg : Cfg} (h : cfg.wellFormed = true) {l : Line} (hl : l ∈ cfg.lineMap) :
    lineMask cfg l.name = 1#32 <<< l.vbit := by
  simp [lineMask, filter_name h hl, bit]

/-- What the host takes after `read_line` (R89). -/
theorem hostReadLine_of_mem {s : State} (h : s.cfg.wellFormed = true) {l : Line} (hl : l ∈ s.cfg.lineMap)
    {v : Word} (hv : s.result = some v) : hostReadLine l.name s = .next (v.getLsbD l.vbit) := by
  simp [hostReadLine, hostReadResult, hv, filter_name h hl]

end Sys2Proof.Machine
end

section
/-! CERTIFICATE. The statements of 30_encoding.md: decoder and encoder, illegal words, assembly lines and
pseudo-instructions. -/

namespace Sys2Proof

open Machine

/-- Settles O1. -/
theorem decodeOfEncodeIsTheCommand : Obligations.DecodeOfEncodeIsTheCommand :=
  fun _ => decode_eq_command_iff_encode.2 rfl

/-- Settles O2. -/
theorem encodeOfDecodeIsTheWord : Obligations.EncodeOfDecodeIsTheWord :=
  fun _ _ => decode_eq_command_iff_encode.1

/-- Settles O3. -/
theorem maskAndMatchSelectTheCommand : Obligations.MaskAndMatchSelectTheCommand :=
  fun _ _ => mask_iff_decode

/-- Settles O4: a decoded command's own pair holds, a pair that holds gives a command, and two pairs of one
word share its `op`. -/
theorem decodingIsTotalAndIllegalWordsRaise : Obligations.DecodingIsTotalAndIllegalWordsRaise := by
  refine ⟨fun w => ?_, fun w c d hc hd => ?_, fun s w why hwf hspace hfault hfetch hdecode => ?_⟩
  · cases hdecode : decode w with
    | command i => exact .inl ⟨i, mask_iff_decode.2 ⟨i, hdecode, rfl⟩, rfl⟩
    | illegal why =>
      refine .inr ⟨fun c hc => ?_, why, rfl⟩
      obtain ⟨i, hi, -⟩ := mask_iff_decode.1 hc
      rw [hdecode] at hi
      cases hi
  · exact (mask_iff_opcode_fits.1 hc).1.symm.trans (mask_iff_opcode_fits.1 hd).1
  · rw [step_of_admission_illegal (admission_of_illegal hwf hspace hfault hfetch hdecode)]
    rfl

/-- Settles O7: a line without operands has a fixed word, and each other line is one of the three kinds; an
operand that does not fit leaves no command. -/
theorem assemblyLinesGiveTheirWords : Obligations.AssemblyLinesGiveTheirWords := by
  refine ⟨fun cfg m n k hm hn hk => ?_, fun cfg x y hx => ?_, fun cfg x y hx => ?_⟩
  · exact ⟨rfl,
      assembleLine_arg (f := .initOutputs) rfl hm rfl rfl,
      assembleLine_arg (f := .requestInputs) rfl hm rfl rfl,
      rfl,
      assembleLine_arg (f := .setBits) rfl hm rfl rfl,
      assembleLine_arg (f := .clearBits) rfl hm rfl rfl,
      rfl,
      rfl,
      assembleLine_arg (f := .sleepNanos) rfl hn rfl rfl,
      rfl,
      assembleLine_idx_arg (f := .pulserAcquire) rfl hk hm rfl rfl,
      assembleLine_idx_arg (f := .pulserSetWidth) rfl hk hn rfl rfl,
      assembleLine_idx (f := .sendPulse) rfl hk rfl rfl⟩
  · have hx32 : operand32 x = none := operand32_of_ge hx
    simp [assembleLine, assemble, hx32]
  · have hx8 : operand8 x = none := operand8_of_ge hx
    simp [assembleLine, assemble, hx8]

/-- Settles O8: a name of the map is the name of one line. -/
theorem pseudoInstructionsExpand : Obligations.PseudoInstructionsExpand := by
  intro cfg l hwf hl
  refine ⟨?_, ?_, rfl, ⟨defined cfg, rfl, fun k hk => getLsbD_defined hk⟩, ?_⟩
  · rw [assemble, lineMask_of_mem hwf hl]
  · rw [assemble, lineMask_of_mem hwf hl]
  · rintro s v rfl hv
    exact hostReadLine_of_mem hwf hl hv

/-- Settles O5: each word is the one its command encodes to; the two illegal ones are evaluated. -/
theorem wordsOfTheVectorsDecode : Obligations.WordsOfTheVectorsDecode := by
  refine ⟨?_, ?_, ?_, ?_, ?_, ?_, by decide, by decide⟩ <;>
    exact decode_eq_command_iff_encode.2 (by decide)

end Sys2Proof
end

section
/-! SUPPORT. INIT (R101 to R104): on a populated table it gives RESULT 0 alone; on an unpopulated one its outcome
is the outcome of mapping the windows in order. -/

namespace Sys2Proof.Machine

/-- R102: on a populated table INIT maps nothing. -/
theorem exec_init_of_mapped {s : State} (hm : s.mapped = true) : exec .init s = .next (setResult 0#32 s) :=
  congrArg Host.Outcome.next (if_pos hm)

/-- R102: on an unpopulated table INIT maps every window. -/
theorem exec_init_of_unmapped {s : State} (hm : s.mapped = false) : exec .init s = .next (initTable s) :=
  congrArg Host.Outcome.next (if_neg (Bool.eq_false_iff.1 hm))

/-- R102: two windows for each bank and two for the clock-control register. -/
theorem length_initWindows (cfg : Cfg) : (initWindows cfg).length = 2 * cfg.numBanks + 2 := by
  have hbanks : ((banksAscending cfg).flatMap fun b => [readWindow cfg b, writeWindow cfg b]).length =
      2 * cfg.numBanks := by
    simp [banksAscending, Nat.mul_comm]
  rw [initWindows, List.length_append, hbanks]
  rfl

theorem initWindows_ne_nil (cfg : Cfg) : initWindows cfg ≠ [] := by simp [initWindows]

/-- The mapping events of INIT with one outcome throughout, bank by bank (R102). -/
theorem map_mapEvent_initWindows (o : Status) (cfg : Cfg) : (initWindows cfg).map (mapEvent o) =
    (List.range cfg.numBanks).flatMap (fun b =>
        [mapEvent o (windowAt cfg (.bank b) (cfg.bankBase b) .read),
         mapEvent o (windowAt cfg (.bank b) (cfg.bankBase b) .write)]) ++
      [mapEvent o (windowAt cfg .clock cfg.clkAddr .read),
       mapEvent o (windowAt cfg .clock cfg.clkAddr .write)] := by
  rw [initWindows, List.map_append, List.map_flatMap]
  rfl

/-- R102: with every mapping granted the table is populated. -/
theorem initTable_of_granted {s : State} (h : (mapAll (initWindows s.cfg) s).1 = true) :
    initTable s = setResult 0#32 (setMapped (mapAll (initWindows s.cfg) s).2) := if_pos h

/-- R103: after a failed mapping there is no table. -/
theorem initTable_of_failed {s : State} (h : (mapAll (initWindows s.cfg) s).1 = false) :
    initTable s = setResult 1#32 (mapAll (initWindows s.cfg) s).2 := if_neg (Bool.eq_false_iff.1 h)

/-- INIT's events are those of its mappings (R104). -/
theorem initTable_trace (s : State) : (initTable s).trace = (mapAll (initWindows s.cfg) s).2.trace := by
  cases h : (mapAll (initWindows s.cfg) s).1 with
  | true => rw [initTable_of_granted h]; rfl
  | false => rw [initTable_of_failed h]; rfl

/-- The frame of INIT: beside the table and RESULT only the history moves, and time not backwards. -/
theorem initTable_frame (s : State) :
    initTable s = { s with mapped := (initTable s).mapped, result := (initTable s).result,
                           trace := (initTable s).trace, time := (initTable s).time,
                           env := (initTable s).env } ∧ s.time ≤ (initTable s).time := by
  have hw := (mapAll_spec (initWindows s.cfg) s).1
  cases h : (mapAll (initWindows s.cfg) s).1 with
  | true => rw [initTable_of_granted h]; exact ⟨by rw [hw.eq]; rfl, hw.time⟩
  | false => rw [initTable_of_failed h]; exact ⟨by rw [hw.eq]; rfl, hw.time⟩

/-- The table is populated with every window mapped, under privilege (R101, R102). -/
def TablePopulated (s t : State) : Prop :=
  t.mapped = true ∧ t.result = some 0#32 ∧ s.cfg.hostPrivileged = true ∧
    t.trace = s.trace ++ (initWindows s.cfg).map (mapEvent .ok)

/-- There is no table: some window of the order failed, after those before it were mapped (R103). -/
def TableRefused (s t : State) : Prop :=
  t.mapped = false ∧ t.result = some 1#32 ∧ ∃ k w, (initWindows s.cfg)[k]? = some w ∧
    t.trace = s.trace ++ ((initWindows s.cfg).take k).map (mapEvent .ok) ++ [mapEvent .fail w]

/-- INIT with every mapping granted (R102). -/
theorem initTable_populated {s : State} (h : (mapAll (initWindows s.cfg) s).1 = true) :
    TablePopulated s (initTable s) := by
  obtain ⟨-, ⟨-, htrace, hpriv⟩ | ⟨hfail, -⟩⟩ := mapAll_spec (initWindows s.cfg) s
  · refine ⟨?_, ?_, hpriv (initWindows_ne_nil _), (initTable_trace s).trans htrace⟩ <;>
      rw [initTable_of_granted h] <;> rfl
  · rw [hfail] at h
    cases h

/-- INIT with a failed mapping (R103). -/
theorem initTable_refused {s : State} (hm : s.mapped = false) (h : (mapAll (initWindows s.cfg) s).1 = false) :
    TableRefused s (initTable s) := by
  obtain ⟨hw, ⟨hok, -⟩ | ⟨-, k, w, hk, htrace⟩⟩ := mapAll_spec (initWindows s.cfg) s
  · rw [hok] at h
    cases h
  · refine ⟨?_, ?_, k, w, hk, (initTable_trace s).trans htrace⟩ <;> rw [initTable_of_failed h]
    · rw [setResult_mapped, hw.eq]
      exact hm
    · rfl

/-- INIT always completes, in one of two ways (R102, R103). -/
theorem initTable_cases {s : State} (hm : s.mapped = false) :
    TablePopulated s (initTable s) ∨ TableRefused s (initTable s) := by
  cases h : (mapAll (initWindows s.cfg) s).1 with
  | true => exact .inl (initTable_populated h)
  | false => exact .inr (initTable_refused hm h)

/-- Without privilege the first window already fails (R101, R103). -/
theorem mapAll_unprivileged {ws : List Window} {s : State} (hp : s.cfg.hostPrivileged = false) (hne : ws ≠ []) :
    (mapAll ws s).1 = false ∧ (mapAll ws s).2.trace = s.trace ++ (ws.take 1).map (mapEvent .fail) := by
  cases ws with
  | nil => exact absurd rfl hne
  | cons w ws => simp [mapAll, mapStatus_unprivileged hp]

end Sys2Proof.Machine
end

section
/-! CERTIFICATE. The statements of 40_init_clock.md: INIT granted, refused and repeated. -/

namespace Sys2Proof

open Machine

/-- Settles O32. -/
theorem initMapsEveryWindow : Obligations.InitMapsEveryWindow := by
  intro s rest hm hpriv henv
  rw [← length_initWindows] at henv
  obtain ⟨hmapped, hresult, -, htrace⟩ := initTable_populated (mapAll_granted hpriv henv)
  obtain ⟨hframe, htime⟩ := initTable_frame s
  rw [hmapped, hresult] at hframe
  exact ⟨initTable s, exec_init_of_unmapped hm, hframe, htime,
    map_mapEvent_initWindows .ok s.cfg ▸ htrace⟩

/-- Settles O33. -/
theorem initFailsFast : Obligations.InitFailsFast := by
  intro s hm
  refine ⟨initTable s, exec_init_of_unmapped hm, (initTable_frame s).1, initTable_cases hm, fun hp => ?_⟩
  obtain ⟨hfail, htrace⟩ := mapAll_unprivileged hp (initWindows_ne_nil s.cfg)
  obtain ⟨-, hresult, -⟩ := initTable_refused hm hfail
  exact ⟨(initTable_trace s).trans htrace, hresult⟩

/-- Settles O31: a populated table comes from a granted INIT, whose events are one for each window. -/
theorem initAgainChangesNothing : Obligations.InitAgainChangesNothing := by
  refine ⟨fun s hm => exec_init_of_mapped hm, fun s t hm hexec ht => ⟨?_, exec_init_of_mapped ht⟩⟩
  rw [exec_init_of_unmapped hm] at hexec
  cases hexec
  obtain ⟨-, -, -, htrace⟩ | ⟨hnot, -⟩ := initTable_cases hm
  · refine ⟨_, htrace, by rw [List.length_map, length_initWindows], fun e he => ?_⟩
    obtain ⟨w, -, rfl⟩ := List.mem_map.1 he
    exact ⟨w.page, w.length, w.mode, rfl⟩
  · rw [hnot] at ht
    cases ht

end Sys2Proof
end

section
/-! SUPPORT. The line map read through masks: how many bits a word has set, the lines a mask has in one bank,
and masks that select the same lines (R122 to R124, R126). -/

namespace Sys2Proof.Machine

/-- A list that names each set bit of a word once has one entry for each set bit. -/
theorem countP_getLsbD_eq_length {w : Word} {ks : List Nat} (hnodup : ks.Nodup) (hlt : ∀ k ∈ ks, k < 32)
    (hbit : ∀ k < 32, w.getLsbD k = true ↔ k ∈ ks) :
    (List.range 32).countP (fun k => w.getLsbD k) = ks.length := by
  have hperm : ((List.range 32).filter fun k => w.getLsbD k).Perm ks := by
    refine (List.perm_ext_iff_of_nodup (List.nodup_range.filter _) hnodup).2 fun k => ?_
    rw [List.mem_filter, List.mem_range]
    exact ⟨fun ⟨hk, hw⟩ => (hbit k hk).1 hw, fun hk => ⟨hlt k hk, (hbit k (hlt k hk)).2 hk⟩⟩
  rw [List.countP_eq_length_filter, hperm.length_eq]

/-- The map has the fourteen lines of R120 (R10 clause 3). -/
theorem length_lineMap {cfg : Cfg} (h : cfg.wellFormed = true) : cfg.lineMap.length = 14 := by
  obtain ⟨-, -, hlines, -⟩ := Cfg.wellFormed_clauses h
  have hnames : (cfg.lineMap.map Line.name).length = LineName.all.length :=
    congrArg List.length ((Cfg.linesOk_iff cfg).1 hlines).1
  rwa [List.length_map] at hnames

/-- The lines of a mask in one bank (R124). -/
def linesInBank (cfg : Cfg) (m : Word) (b : Nat) : List Line :=
  cfg.lineMap.filter fun l => l.bank == b && m.getLsbD l.vbit

theorem mem_linesInBank {cfg : Cfg} {m : Word} {b : Nat} {l : Line} :
    l ∈ linesInBank cfg m b ↔ l ∈ cfg.lineMap ∧ l.bank = b ∧ m.getLsbD l.vbit = true := by
  rw [linesInBank, List.mem_filter, Bool.and_eq_true, beq_iff_eq]

/-- The physical bits of a mask's lines in one bank are those it resolves to there (R123, R124). -/
theorem mem_map_pbit_linesInBank {cfg : Cfg} {m : Word} {b k : Nat} :
    k ∈ (linesInBank cfg m b).map Line.pbit ↔ (b, k) ∈ resolve cfg m := by
  simp only [List.mem_map, mem_linesInBank, mem_resolve, Prod.mk.injEq]
  constructor
  · rintro ⟨l, ⟨hl, rfl, hm⟩, rfl⟩
    exact ⟨l, hl, hm, rfl, rfl⟩
  · rintro ⟨l, hl, hm, rfl, rfl⟩
    exact ⟨l, ⟨hl, rfl, hm⟩, rfl⟩

/-- Two lines of one bank have two physical bits (R10 clause 3). -/
theorem nodup_map_pbit_linesInBank {cfg : Cfg} (h : cfg.wellFormed = true) (m : Word) (b : Nat) :
    ((linesInBank cfg m b).map Line.pbit).Nodup := by
  refine List.Nodup.map_on (fun l hl l' hl' hp => ?_) ((Cfg.vbits_nodup h).of_map.filter _)
  obtain ⟨hmem, hb, -⟩ := mem_linesInBank.1 hl
  obtain ⟨hmem', hb', -⟩ := mem_linesInBank.1 hl'
  exact line_eq_of_pair h hmem hmem' (hb.trans hb'.symm) hp

/-- Selecting the lines and taking their pairs is one pass over the map (R123). -/
theorem resolve_eq_filterMap (cfg : Cfg) (m : Word) :
    resolve cfg m = cfg.lineMap.filterMap fun l =>
      if m.getLsbD l.vbit then some (l.bank, l.pbit) else none := by
  rw [resolve]
  induction cfg.lineMap with
  | nil => rfl
  | cons l ls ih => cases hl : m.getLsbD l.vbit <;> simp [hl, ih]

@[simp] theorem resolve_zero (cfg : Cfg) : resolve cfg 0#32 = [] := by simp [resolve]

/-- The virtual bit of a line of the map is a defined bit (R122). -/
theorem getLsbD_defined_vbit {cfg : Cfg} (h : cfg.wellFormed = true) {l : Line} (hl : l ∈ cfg.lineMap) :
    (defined cfg).getLsbD l.vbit = true :=
  (getLsbD_defined (Cfg.line_range h hl).1).2 ⟨l, hl, rfl⟩

/-- The undefined bits of a mask select no line (R126). -/
theorem resolve_and_defined {cfg : Cfg} (h : cfg.wellFormed = true) (m : Word) :
    resolve cfg (m &&& defined cfg) = resolve cfg m := by
  have hsel : ∀ l ∈ cfg.lineMap, (m &&& defined cfg).getLsbD l.vbit = m.getLsbD l.vbit := fun l hl => by
    rw [BitVec.getLsbD_and, getLsbD_defined_vbit h hl, Bool.and_true]
  rw [resolve, resolve, List.filter_congr hsel]

/-- Undefined bits added to a mask select nothing more (R126). -/
theorem resolve_or_undefined {cfg : Cfg} (h : cfg.wellFormed = true) (w : Word) {m : Word}
    (hm : m &&& defined cfg = 0#32) : resolve cfg (w ||| m) = resolve cfg w := by
  have hand : (w ||| m) &&& defined cfg = w &&& defined cfg := by
    rw [BitVec.and_or_distrib_right, hm, BitVec.or_zero]
  rw [← resolve_and_defined h, hand, resolve_and_defined h]

/-- The bit of one line resolves to that line's pair alone (R123, R10 clause 3). -/
theorem resolve_bit {cfg : Cfg} (h : cfg.wellFormed = true) {l : Line} (hl : l ∈ cfg.lineMap) :
    resolve cfg (bit l.vbit) = [(l.bank, l.pbit)] := by
  have hsel : ∀ x ∈ cfg.lineMap, (bit l.vbit).getLsbD x.vbit = (x == l) := fun x hx => by
    rw [getLsbD_bit, decide_eq_true (Cfg.line_range h hx).1, Bool.true_and, Bool.eq_iff_iff,
      decide_eq_true_eq, beq_iff_eq]
    exact ⟨line_eq_of_vbit h hx hl, congrArg _⟩
  rw [resolve, List.filter_congr hsel, List.filter_beq,
    List.count_eq_one_of_mem (Cfg.vbits_nodup h).of_map hl, List.replicate_one, List.map_singleton]

end Sys2Proof.Machine
end

section
/-! CERTIFICATE. The statements of 41_line_map.md: DEFINED, `resolve` and `perBank`. -/

namespace Sys2Proof

open Machine

/-- Settles O28: the set bits are the virtual bits of the fourteen lines, which are distinct. -/
theorem fourteenLinesAreDefined : Obligations.FourteenLinesAreDefined := by
  refine fun cfg h => ⟨fun k hk => getLsbD_defined hk, ?_⟩
  have hcount := countP_getLsbD_eq_length (w := defined cfg) (Cfg.vbits_nodup h)
    (List.forall_mem_map.2 fun l hl => (Cfg.line_range h hl).1)
    (fun k hk => (getLsbD_defined hk).trans List.mem_map.symm)
  rw [hcount, List.length_map, length_lineMap h]

/-- Settles O29: the example of the clock line is the bit of that line with undefined bits added. -/
theorem undefinedBitsAreIgnored : Obligations.UndefinedBitsAreIgnored := by
  refine fun cfg m h => ⟨resolve_eq_filterMap cfg m, resolve_nodup h m, resolve_zero cfg,
    (resolve_and_defined h m).symm, fun hm => ?_, fun b p => ?_⟩
  · exact (resolve_or_undefined h _ hm).trans (resolve_bit h (Cfg.clock_mem h))
  · rw [mem_resolve]
    constructor
    · rintro ⟨l, hl, hbit, hpair⟩
      obtain ⟨rfl, rfl⟩ := Prod.mk.inj hpair
      exact ⟨l, hl, rfl, rfl, hbit⟩
    · rintro ⟨l, hl, rfl, rfl, hbit⟩
      exact ⟨l, hl, hbit, rfl⟩

/-- Settles O30: the set bits are the physical bits of the mask's lines in the bank, which are distinct. -/
theorem perBankHasOneBitPerLine : Obligations.PerBankHasOneBitPerLine := by
  refine fun cfg m b h => ⟨fun k hk => getLsbD_perBank hk, ?_⟩
  have hcount := countP_getLsbD_eq_length (w := perBank cfg m b) (nodup_map_pbit_linesInBank h m b)
    (List.forall_mem_map.2 fun l hl => (Cfg.line_range h (mem_linesInBank.1 hl).1).2.2)
    (fun k hk => (getLsbD_perBank hk).trans mem_map_pbit_linesInBank.symm)
  rw [hcount, List.length_map, linesInBank, ← List.countP_eq_length_filter]

end Sys2Proof
end

section
/-! SUPPORT. The controller's commands on a populated table (R130 to R139), each by the law of its shared body:
claims, the bulk read, SET_BITS and CLEAR_BITS as one command with a polarity, and flushes. -/

namespace Sys2Proof.Machine

/-! Claims (R131, R132). -/

/-- INIT_OUTPUTS is its claim and the update of `outputs` (R131). -/
theorem exec_initOutputs_of_claim {s : State} {m : Word} {r : Run} (hm : s.mapped = true)
    (hc : claim m true ⟨s, false⟩ = .ok () r) :
    exec (.initOutputs m) s = .next (addOutputs (s.accepted m) r.st) := by
  simp only [exec, execInitOutputs, needMapped_true hm, runBody_eq, hc, Res.bind_ok, Res.final_ok]

/-- REQUEST_INPUTS is its claim and the update of `inputs` (R132). -/
theorem exec_requestInputs_of_claim {s : State} {m : Word} {r : Run} (hm : s.mapped = true)
    (hc : claim m false ⟨s, false⟩ = .ok () r) :
    exec (.requestInputs m) s = .next (addInputs (s.accepted m) r.st) := by
  simp only [exec, execRequestInputs, needMapped_true hm, runBody_eq, hc, Res.bind_ok, Res.final_ok]

/-- What changes the direction registers alone among the per-bank tables, and not their number, keeps the tables
sized (R29, R34). -/
theorem sized_of_dir_length {s t : State} (hs : s.Sized) (hcfg : t.cfg = s.cfg) (hwc : t.wc = s.wc)
    (hdata : t.data = s.data) (hdir : t.dir.length = s.dir.length) : t.Sized := by
  rw [State.Sized, hcfg, hwc, hdata, hdir]
  exact hs

/-- A claim that no set stands against is granted whole (R130). -/
theorem and_not_eq_self_of_disjoint {m c : Word} (h : m &&& c = 0#32) : m &&& ~~~c = m := by
  calc m &&& ~~~c = (m &&& c) ||| (m &&& ~~~c) := by rw [h, BitVec.zero_or]
    _ = m := by rw [← BitVec.and_or_distrib_left, BitVec.or_not_self, BitVec.and_allOnes]

/-! The bulk read (R133). -/

/-- What READ_ALL aggregates has defined bits only (R122, R125). -/
theorem readAllValue_and_not_defined {cfg : Cfg} (h : cfg.wellFormed = true) (x : Nat → Word) :
    readAllValue cfg x &&& ~~~defined cfg = 0#32 := by
  apply BitVec.eq_of_getLsbD_eq
  intro k hk
  cases hv : (readAllValue cfg x).getLsbD k with
  | false => simp [hv]
  | true =>
    obtain ⟨l, hl, hlk, -⟩ := (getLsbD_readAllValue h x hk).1 hv
    simp [(getLsbD_defined hk).2 ⟨l, hl, hlk⟩]

/-- READ_ALL on a populated table (R133). -/
theorem exec_readAll_ok {s : State} (h : s.cfg.wellFormed = true) (hm : s.mapped = true) :
    ∃ (t : State) (x : Nat → Word), exec .readAll s = .next t ∧
      t = { s with result := some (readAllValue s.cfg x), clk := t.clk, trace := t.trace, time := t.time,
                   env := t.env } ∧
      s.time ≤ t.time ∧ t.clk = gateField s.clk (clkGateWord s.cfg) ∧
      (∀ b ∈ affected s.cfg (defined s.cfg), s.MayRead b (x b)) ∧
      t.trace = s.trace ++ readAllEvents s.cfg x := by
  set r1 : Run := ⟨emit (gateEvent s.cfg) (setClk (clkGateWord s.cfg) s), true⟩ with hr1
  have hf1 : DevFrame s r1.st := (setClk_frame _ _).trans (emit_frame _ _)
  obtain ⟨x, r2, hok, heq, htime, hread, htrace⟩ := readBanks_ok (r := r1) (bs := banksAscending s.cfg)
    List.nodup_range (fun b hb => List.mem_range.1 hb) h rfl 0#32
  rw [BitVec.zero_or] at hok
  have hvalue : readBanks (banksAscending r1.st.cfg) 0#32 r1 = .ok (readAllValue s.cfg x) r2 := hok
  refine ⟨setResult (readAllValue s.cfg x) r2.st, x, ?_, ?_, hf1.time.trans htime, ?_, fun b hb => ?_, ?_⟩
  · rw [exec, execReadAll, needMapped_true hm, runBody_eq, clockEnable_ok (r := ⟨s, false⟩) h, Res.bind_ok,
      ← hr1, hvalue, Res.bind_ok, Res.final_ok]
  · rw [heq]
    rfl
  · rw [setResult_clk, heq]
    rfl
  · obtain ⟨hmem, hp⟩ := List.mem_filter.1 hb
    exact (MayRead_congr hf1.cfg rfl rfl).1 (hread b hmem (of_decide_eq_true hp))
  · rw [setResult_trace, htrace]
    simp only [hr1, emit_trace, setClk_trace, List.append_assoc, List.singleton_append]
    rfl

/-! SET_BITS and CLEAR_BITS (R134 to R136). -/

/-- SET_BITS or CLEAR_BITS, by its polarity (R134, R135). -/
def bitsInstr (pol : Polarity) (m : Word) : Instr :=
  match pol with
  | .set => .setBits m
  | .clear => .clearBits m

/-- On a populated table both commands are their common body (R134, R135). -/
theorem exec_bitsInstr {s : State} (hm : s.mapped = true) (pol : Polarity) (m : Word) :
    exec (bitsInstr pol m) s = .next (applyBits m pol ⟨s, false⟩).final := by
  cases pol with
  | set => exact needMapped_true hm
  | clear => exact needMapped_true hm

/-- A repeat of the memo's pair changes nothing (R136). -/
theorem exec_bitsInstr_of_memo {s : State} (hm : s.mapped = true) {m : Word} {pol : Polarity}
    (hmemo : s.memo = some ⟨m, pol⟩) : exec (bitsInstr pol m) s = .next s := by
  rw [exec_bitsInstr hm]
  simp only [applyBits, hmemo, if_true, Res.final_ok]

/-- A set or clear that is no repeat, between commands (R134, R135). -/
theorem exec_bitsInstr_ok {s : State} {m : Word} {pol : Polarity} (h : s.cfg.wellFormed = true) (hs : s.Sized)
    (hq : s.Quiet) (hm : s.mapped = true) (hmemo : s.memo ≠ some ⟨m, pol⟩) :
    ∃ (t : State) (x : Nat → Word), exec (bitsInstr pol m) s = .next t ∧
      t = { s with data := t.data, clk := t.clk, memo := some ⟨m, pol⟩, trace := t.trace, time := t.time,
                   env := t.env } ∧
      t.data.length = s.data.length ∧ s.time ≤ t.time ∧
      (∀ b, perBank s.cfg m b ≠ 0#32 →
        s.MayRead b (x b) ∧ t.dataOf b = written pol (perBank s.cfg m b) (x b)) ∧
      (∀ b, perBank s.cfg m b = 0#32 → t.dataOf b = s.dataOf b) ∧
      t.clk = (if affected s.cfg m = [] then s.clk else gateField s.clk (clkGateWord s.cfg)) ∧
      t.trace = s.trace ++ bitsEvents s.cfg m pol x := by
  obtain ⟨x, r, hok, heq, hlen, htime, hclk, hread, hdata, htrace⟩ :=
    applyBits_ok (r := ⟨s, false⟩) h hs hq hmemo
  refine ⟨r.st, x, ?_, heq, hlen, htime, fun b hp => ⟨hread b hp, ?_⟩, fun b hp => ?_, hclk, htrace⟩
  · rw [exec_bitsInstr hm, hok, Res.final_ok]
  · rw [hdata, if_neg hp]
  · rw [hdata, if_pos hp]

/-- A set or clear completes between commands with its pair in the memo, a repeat included (R136). -/
theorem exec_bitsInstr_memo {s : State} (h : s.cfg.wellFormed = true) (hs : s.Sized) (hq : s.Quiet)
    (hm : s.mapped = true) (m : Word) (pol : Polarity) :
    ∃ t, exec (bitsInstr pol m) s = .next t ∧ t.memo = some ⟨m, pol⟩ ∧ t.outputs = s.outputs := by
  obtain ⟨r, hok, heq, -⟩ := applyBits_any h hs hq m pol
  refine ⟨r.st, by rw [exec_bitsInstr hm, hok, Res.final_ok], ?_, ?_⟩ <;> rw [heq]

/-- Data latches that agree bank by bank are the same. -/
theorem data_eq_of_dataOf {s t : State} (hlen : t.data.length = s.data.length)
    (h : ∀ b, t.dataOf b = s.dataOf b) : t.data = s.data := by
  refine List.ext_getElem hlen fun b ht hs => ?_
  simpa [State.dataOf, ht, hs] using h b

/-- In LATCH mode a data read gives the latch (R58). -/
theorem mayRead_latch {s : State} {b : Nat} {x : Word} (hmode : s.cfg.dataReadMode = .latch) :
    s.MayRead b x ↔ x = s.dataOf b := by
  simp only [State.MayRead, hmode]

/-- Where the latches are read back and the memo is true, its pair executed again writes to each latch the value
it holds (R136). -/
theorem exec_bitsInstr_again {s t : State} {m : Word} {pol : Polarity} (hs : s.Inv)
    (h : s.cfg.wellFormed = true) (hmode : s.cfg.dataReadMode = .latch) (hm : s.mapped = true)
    (hmemo : s.memo = some ⟨m, pol⟩) (ht : exec (bitsInstr pol m) { s with memo := none } = .next t) :
    t.data = s.data := by
  obtain ⟨t', x, ht', -, hlen, -, hhit, hmiss, -⟩ := exec_bitsInstr_ok (s := { s with memo := none }) (m := m)
    (pol := pol) h hs.sized hs.quiet hm nofun
  cases ht.symm.trans ht'
  refine data_eq_of_dataOf hlen fun b => ?_
  by_cases hp : perBank s.cfg m b = 0#32
  · exact hmiss b hp
  · obtain ⟨hread, hwritten⟩ := hhit b hp
    have hx : x b = s.dataOf b := (mayRead_latch hmode).1 hread
    have hb : b < s.cfg.numBanks := Nat.lt_of_not_le fun hge => hp (perBank_of_ge h m hge)
    calc t.dataOf b = written pol (perBank s.cfg m b) (s.dataOf b) := hwritten.trans (by rw [hx])
      _ = s.dataOf b := hs.memo ⟨m, pol⟩ (by simp [hmemo]) b hb

/-! The writes among the events of a set or clear (R140). -/

theorem mem_affected {cfg : Cfg} {m : Word} {b : Nat} :
    b ∈ affected cfg m ↔ b < cfg.numBanks ∧ perBank cfg m b ≠ 0#32 := by
  simp [affected, banksAscending]

theorem affected_nodup (cfg : Cfg) (m : Word) : (affected cfg m).Nodup := List.nodup_range.filter _

/-- One read and one write of each of a list of banks (R138). -/
def bankAccesses (cfg : Cfg) (m : Word) (pol : Polarity) (x : Nat → Word) (bs : List Nat) : List Event :=
  bs.flatMap fun b =>
    [.regRead (cfg.bankBase b) (x b), .regWrite (cfg.bankBase b) (written pol (perBank cfg m b) (x b))]

theorem bitsEvents_eq (cfg : Cfg) (m : Word) (pol : Polarity) (x : Nat → Word) : bitsEvents cfg m pol x =
    if affected cfg m = [] then [] else gateEvent cfg :: bankAccesses cfg m pol x (affected cfg m) := rfl

/-- A bank's data register is written once for each place the bank has in the list, banks having distinct bases
(R10 clause 1). -/
theorem countP_isWriteTo_bankAccesses {cfg : Cfg} (h : cfg.wellFormed = true) (m : Word) (pol : Polarity)
    (x : Nat → Word) {b : Nat} (hb : b < cfg.numBanks) {bs : List Nat} (hbs : ∀ c ∈ bs, c < cfg.numBanks) :
    (bankAccesses cfg m pol x bs).countP (isWriteTo (cfg.bankBase b)) = bs.count b := by
  induction bs with
  | nil => rfl
  | cons c bs ih =>
    have hwrite : (cfg.bankBase c == cfg.bankBase b) = (c == b) := by
      rw [Bool.eq_iff_iff, beq_iff_eq, beq_iff_eq]
      exact ⟨Cfg.bankBase_inj h (hbs c List.mem_cons_self) hb, congrArg _⟩
    have hrest := ih fun d hd => hbs d (List.mem_cons_of_mem _ hd)
    rw [bankAccesses] at hrest ⊢
    simp only [List.flatMap_cons, List.countP_append, List.countP_cons, List.countP_nil, isWriteTo, hwrite, hrest,
      List.count_cons, Bool.false_eq_true, if_false]
    omega

/-- A set or clear writes each affected bank once, and no other (R140). -/
theorem countP_isWriteTo_affected {cfg : Cfg} (h : cfg.wellFormed = true) (m : Word) (pol : Polarity)
    (x : Nat → Word) {b : Nat} (hb : b < cfg.numBanks) :
    (bankAccesses cfg m pol x (affected cfg m)).countP (isWriteTo (cfg.bankBase b)) =
      if perBank cfg m b = 0#32 then 0 else 1 := by
  rw [countP_isWriteTo_bankAccesses h m pol x hb fun c hc => (mem_affected.1 hc).1,
    (affected_nodup cfg m).count]
  simp [mem_affected, hb]

/-! Reading back (R141). -/

/-- A bit a set or clear selects has its polarity in a value that applying it would not change (R138). -/
theorem getLsbD_of_written_eq_self {pol : Polarity} {p x : Word} (h : written pol p x = x) {k : Nat}
    (hk : p.getLsbD k = true) : x.getLsbD k = decide (pol = .set) := by
  rw [← h]
  cases pol with
  | set => simp [written, hk]
  | clear => simp [written, hk]

/-- A data read gives a line's latch where the latches are read back, or the line is a claimed output (R58,
R243). -/
theorem getLsbD_of_mayRead {s : State} {l : Line} {x : Word} (hread : s.MayRead l.bank x)
    (hdir : s.DirectionsKnown) (hl : l ∈ s.cfg.lineMap)
    (hsrc : s.cfg.dataReadMode = .latch ∨ s.outputs.getLsbD l.vbit = true) :
    x.getLsbD l.pbit = (s.dataOf l.bank).getLsbD l.pbit := by
  rcases hsrc with hmode | hout
  · rw [(mayRead_latch hmode).1 hread]
  · obtain ⟨hset, -⟩ := hdir l hl
    have hbit := congrArg (BitVec.getLsbD · l.pbit) (MayRead_outputs hread)
    simpa only [BitVec.getLsbD_and, hset hout, Bool.and_true] using hbit

/-- READ_ALL gives at a line's virtual bit what its bank's read gave at its physical bit (R125). -/
theorem getLsbD_readAllValue_line {cfg : Cfg} (h : cfg.wellFormed = true) (x : Nat → Word) {l : Line}
    (hl : l ∈ cfg.lineMap) : (readAllValue cfg x).getLsbD l.vbit = (x l.bank).getLsbD l.pbit := by
  rw [Bool.eq_iff_iff, getLsbD_readAllValue h x (Cfg.line_range h hl).1]
  constructor
  · rintro ⟨l', hl', hv, hx⟩
    rwa [← line_eq_of_vbit h hl' hl hv]
  · exact fun hx => ⟨l, hl, rfl, hx⟩

/-- A line of the map lies in a bank that READ_ALL reads (R122, R133). -/
theorem bank_mem_affected_defined {cfg : Cfg} (h : cfg.wellFormed = true) {l : Line} (hl : l ∈ cfg.lineMap) :
    l.bank ∈ affected cfg (defined cfg) := by
  have hpair : (l.bank, l.pbit) ∈ resolve cfg (defined cfg) :=
    mem_resolve.2 ⟨l, hl, getLsbD_defined_vbit h hl, rfl⟩
  exact mem_affected.2 ⟨(Cfg.line_range h hl).2.1, perBank_ne_zero h hpair⟩

/-- A bit of a mask within another is a bit of the other. -/
theorem getLsbD_of_and_not_eq_zero {m c : Word} (h : m &&& ~~~c = 0#32) {k : Nat} (hk : m.getLsbD k = true) :
    c.getLsbD k = true := by
  have hlt : k < 32 := BitVec.lt_of_getLsbD hk
  have hbit := congrArg (BitVec.getLsbD · k) h
  simpa [hk, hlt] using hbit

/-- READ_ALL after the memo's set or clear of defined lines gives its polarity at each of them (R141). -/
theorem exec_readAll_of_memo {t : State} {m : Word} {pol : Polarity} (h : t.cfg.wellFormed = true) (ht : t.Inv)
    (hm : t.mapped = true) (hmemo : t.memo = some ⟨m, pol⟩) (hdef : m &&& ~~~defined t.cfg = 0#32)
    (hsrc : t.cfg.dataReadMode = .latch ∨ m &&& ~~~t.outputs = 0#32) :
    ∃ u v, exec .readAll t = .next u ∧ u.result = some v ∧
      ∀ k, m.getLsbD k = true → v.getLsbD k = decide (pol = .set) := by
  obtain ⟨u, x, hu, heq, -, -, hread, -⟩ := exec_readAll_ok h hm
  refine ⟨u, readAllValue t.cfg x, hu, by rw [heq], fun k hk => ?_⟩
  obtain ⟨l, hl, rfl⟩ :=
    (getLsbD_defined (BitVec.lt_of_getLsbD hk)).1 (getLsbD_of_and_not_eq_zero hdef hk)
  have happlied : written pol (perBank t.cfg m l.bank) (t.dataOf l.bank) = t.dataOf l.bank :=
    ht.memo ⟨m, pol⟩ (by simp [hmemo]) l.bank (Cfg.line_range h hl).2.1
  calc (readAllValue t.cfg x).getLsbD l.vbit = (x l.bank).getLsbD l.pbit := getLsbD_readAllValue_line h x hl
    _ = (t.dataOf l.bank).getLsbD l.pbit :=
      getLsbD_of_mayRead (hread _ (bank_mem_affected_defined h hl)) ht.directions hl
        (hsrc.imp_right fun hout => getLsbD_of_and_not_eq_zero hout hk)
    _ = decide (pol = .set) := getLsbD_of_written_eq_self happlied (by rw [perBank_line h hl, hk])

/-- A set or clear of defined lines and the READ_ALL after it (R141). -/
theorem readAll_after_bitsInstr {s : State} {m : Word} (h : s.cfg.wellFormed = true) (hs : s.Inv) (hm : s.mapped = true)
    (hdef : m &&& ~~~defined s.cfg = 0#32)
    (hsrc : s.cfg.dataReadMode = .latch ∨ m &&& ~~~s.outputs = 0#32) (pol : Polarity) :
    ∃ t u v, exec (bitsInstr pol m) s = .next t ∧ exec .readAll t = .next u ∧ u.result = some v ∧
      ∀ k, m.getLsbD k = true → v.getLsbD k = decide (pol = .set) := by
  obtain ⟨t, ht, hmemo, hout⟩ := exec_bitsInstr_memo h hs.sized hs.quiet hm m pol
  have hcfg := exec_cfg ht
  obtain ⟨u, v, hu⟩ := exec_readAll_of_memo (hcfg ▸ h) (exec_inv h hs ht) (exec_mapped_mono ht hm) hmemo
    (hcfg ▸ hdef) (hcfg ▸ hout ▸ hsrc)
  exact ⟨t, u, v, ht, hu⟩

/-! Flushes (R138, R139). -/

/-- Some entry is dirty exactly where the flush finds one among its banks (R138). -/
theorem anyDirty_iff {s : State} (hs : s.Sized) : anyDirty s = true ↔ ∃ b, (s.wcOf b).dirty = true := by
  simp only [anyDirty, List.any_eq_true, banksAscending, List.mem_range]
  refine ⟨fun ⟨b, _, hd⟩ => ⟨b, hd⟩, fun ⟨b, hd⟩ => ⟨b, Nat.lt_of_not_le fun hge => ?_, hd⟩⟩
  rw [← hs.1] at hge
  simp [State.wcOf, hge, WcEntry.clean] at hd

/-- With no dirty entry a flush does nothing (R138). -/
theorem flushStep_of_noneDirty {r : Run} (h : ∀ b, (r.st.wcOf b).dirty = false) : flushStep r = .ok () r := by
  simp [flushStep, anyDirty, h]

end Sys2Proof.Machine
end

section
/-! CERTIFICATE. The statements of 42_controller.md: claims, the bulk read, sets and clears with their memo,
flushes, and the properties of its section 5. -/

namespace Sys2Proof

open Machine

/-- Settles O34: the claim with direction output, then the update of `outputs`. -/
theorem initOutputsGrantsAndPrograms : Obligations.InitOutputsGrantsAndPrograms := by
  refine ⟨fun s m hm => needMapped_false hm, ?_⟩
  rintro s m _ h hs hm rfl
  obtain ⟨r, hok, heq, hlen, htime, hclk, hdir, htrace⟩ := claim_ok (r := ⟨s, false⟩) h hs m true
  refine ⟨_, exec_initOutputs_of_claim hm hok, ?_, hlen, htime, hdir, hclk, htrace⟩
  rw [heq]
  rfl

/-- Settles O35: the claim with direction input, then the update of `inputs`. -/
theorem requestInputsGrantsAndPrograms : Obligations.RequestInputsGrantsAndPrograms := by
  refine ⟨fun s m hm => needMapped_false hm, ?_⟩
  rintro s m _ h hs hm rfl
  obtain ⟨r, hok, heq, hlen, htime, hclk, hdir, htrace⟩ := claim_ok (r := ⟨s, false⟩) h hs m false
  refine ⟨_, exec_requestInputs_of_claim hm hok, ?_, hlen, htime, hdir, hclk, htrace⟩
  rw [heq]
  rfl

/-- Settles O36: RESULT is the aggregate of the reads, read bit by bit. -/
theorem readAllAggregatesTheBanks : Obligations.ReadAllAggregatesTheBanks := by
  refine ⟨fun s hm => needMapped_false hm, fun s h hm => ?_⟩
  obtain ⟨t, x, ht, heq, htime, hclk, hread, htrace⟩ := exec_readAll_ok h hm
  exact ⟨t, x, readAllValue s.cfg x, ht, heq, htime, hclk, hread, fun _ hk => getLsbD_readAllValue h x hk,
    readAllValue_and_not_defined h x, htrace⟩

/-- Settles O37: the common body with polarity SET. -/
theorem setBitsWritesAffectedBanks : Obligations.SetBitsWritesAffectedBanks :=
  ⟨fun _ _ hm => needMapped_false hm, fun _ _ hm hmemo => exec_bitsInstr_of_memo (pol := .set) hm hmemo,
    fun _ _ h hs hq hm hmemo => exec_bitsInstr_ok (pol := .set) h hs hq hm hmemo⟩

/-- Settles O38: the common body with polarity CLEAR. -/
theorem clearBitsWritesAffectedBanks : Obligations.ClearBitsWritesAffectedBanks :=
  ⟨fun _ _ hm => needMapped_false hm, fun _ _ hm hmemo => exec_bitsInstr_of_memo (pol := .clear) hm hmemo,
    fun _ _ h hs hq hm hmemo => exec_bitsInstr_ok (pol := .clear) h hs hq hm hmemo⟩

/-- Settles O39: the invariant says that the memo's pair is applied already. -/
theorem memoHitsAreTransparent : Obligations.MemoHitsAreTransparent :=
  ⟨fun _ _ _ hs h hmode hm hmemo ht => exec_bitsInstr_again (pol := .set) hs h hmode hm hmemo ht,
    fun _ _ _ hs h hmode hm hmemo ht => exec_bitsInstr_again (pol := .clear) hs h hmode hm hmemo ht⟩

/-- Settles O40: `flushStep_ok` bank by bank, dirty or clean; with none dirty the flush does nothing. -/
theorem flushWritesDirtyBanks : Obligations.FlushWritesDirtyBanks := by
  intro s h hs hm hmixed
  obtain ⟨x, r, hok, hframe, hdir, hclk, hread, hdata, hwc, htrace⟩ := flushStep_ok (r := ⟨s, false⟩) h hs hmixed
  refine ⟨r.st, x, ?_, ?_, fun b hd => ⟨hread b hd, ?_, ?_⟩, fun b hd => ⟨?_, ?_⟩, fun hnone => ?_,
    fun hsome => ⟨?_, ?_⟩⟩
  · show needMapped .flush s (runBody flushStep s) = _
    rw [needMapped_true hm, runBody_eq, hok, Res.final_ok]
  · have e := hframe.eq
    rwa [hdir] at e
  · exact (hdata b).trans (by rw [if_pos hd, WcEntry.apply_eq_written])
  · exact (hwc b).trans (if_pos hd)
  · exact (hdata b).trans (if_neg (Bool.eq_false_iff.1 hd))
  · exact (hwc b).trans (if_neg (Bool.eq_false_iff.1 hd))
  · cases hok.symm.trans (flushStep_of_noneDirty (r := ⟨s, false⟩) hnone)
    rfl
  · exact hclk.trans (if_pos ((anyDirty_iff hs).2 hsome))
  · rw [bankEvents_eq_written, if_pos ((anyDirty_iff hs).2 hsome)] at htrace
    exact htrace

/-- Settles O52: a repeat of the memo's pair has no events; otherwise those after the gate are one read and one
write of each affected bank. -/
theorem oneWritePerAffectedBank : Obligations.OneWritePerAffectedBank := by
  intro s t m i pol hi h hs hq hm ht
  have hinstr : i = bitsInstr pol m := by
    rcases hi with ⟨rfl, rfl⟩ | ⟨rfl, rfl⟩ <;> rfl
  rw [hinstr] at ht
  by_cases hmemo : s.memo = some ⟨m, pol⟩
  · cases ht.symm.trans (exec_bitsInstr_of_memo hm hmemo)
    exact ⟨[], .inl (List.append_nil _).symm, fun b _ => ⟨Nat.zero_le 1, fun hne => absurd hmemo hne⟩⟩
  · obtain ⟨t', x, ht', -, -, -, -, -, -, htrace⟩ := exec_bitsInstr_ok h hs hq hm hmemo
    cases ht.symm.trans ht'
    refine ⟨bankAccesses s.cfg m pol x (affected s.cfg m), ?_, fun b hb => ?_⟩
    · rw [htrace, bitsEvents_eq]
      by_cases hnone : affected s.cfg m = []
      · exact .inl (by rw [if_pos hnone, hnone]; rfl)
      · exact .inr (by rw [if_neg hnone])
    · have hcount := countP_isWriteTo_affected h m pol x hb
      exact ⟨by rw [hcount]; split <;> omega, fun _ => hcount⟩

/-- Settles O53: the memo is the pair just executed, and the invariant says that it is applied. -/
theorem readbackAfterSetAndClear : Obligations.ReadbackAfterSetAndClear := by
  intro s m h hs hm hdef hsrc
  constructor
  · obtain ⟨t, u, v, ht, hu, hv, hbits⟩ := readAll_after_bitsInstr h hs hm hdef hsrc .set
    refine ⟨t, u, v, ht, hu, hv, BitVec.eq_of_getLsbD_eq fun k _ => ?_⟩
    cases hk : m.getLsbD k <;> simp [hk, hbits]
  · obtain ⟨t, u, v, ht, hu, hv, hbits⟩ := readAll_after_bitsInstr h hs hm hdef hsrc .clear
    refine ⟨t, u, v, ht, hu, hv, BitVec.eq_of_getLsbD_eq fun k _ => ?_⟩
    cases hk : m.getLsbD k <;> simp [hk, hbits]

/-- Settles O54: the second claim meets only the first, which it is disjoint from. -/
theorem disjointClaimsAreIsolated : Obligations.DisjointClaimsAreIsolated := by
  intro s m1 m2 h hs hm hout hin hres hdisj
  obtain ⟨t, ht, heq, hlen, -, hdir, -⟩ := initOutputsGrantsAndPrograms.2 s m1 m1 h hs hm
    (by rw [hout, hin, hres, BitVec.or_zero, BitVec.or_zero, and_not_eq_self_of_disjoint BitVec.and_zero])
  have hcfg : t.cfg = s.cfg := exec_cfg ht
  have hclaimed : t.outputs ||| t.inputs ||| t.reserved = m1 := by
    rw [heq]
    simp [hout, hin, hres]
  obtain ⟨u, hu, hequ, -, -, hdiru, -⟩ := initOutputsGrantsAndPrograms.2 t m2 m2 (hcfg ▸ h)
    (sized_of_dir_length hs hcfg (by rw [heq]) (by rw [heq]) hlen) (exec_mapped_mono ht hm)
    (by rw [hclaimed, and_not_eq_self_of_disjoint (by rw [BitVec.and_comm, hdisj])])
  refine ⟨t, u, ht, by rw [heq], hu, by rw [hequ], fun b hb1 hb2 => ?_⟩
  rw [hdiru, hdir, hcfg, hb1, hb2, BitVec.or_zero, BitVec.or_zero]

/-- Settles O55: the second claim accepts no line of the first, and programs only the lines it accepts. -/
theorem partialGrantsAreSilent : Obligations.PartialGrantsAreSilent := by
  intro s t m1 m2 g h hs hm ht hg _
  obtain ⟨t', ht', heq, hlen, -⟩ := requestInputsGrantsAndPrograms.2 s m1 _ h hs hm rfl
  cases ht.symm.trans ht'
  have hcfg : t.cfg = s.cfg := exec_cfg ht
  have hgranted : s.accepted m1 = g := by
    rw [heq] at hg
    exact Option.some.inj hg
  have hinputs : t.inputs = s.inputs ||| g := by rw [heq, ← hgranted]; rfl
  have hclaimed : t.outputs ||| t.inputs ||| t.reserved = s.outputs ||| s.inputs ||| g ||| s.reserved := by
    rw [hinputs, ← BitVec.or_assoc, heq]
  obtain ⟨u, hu, hequ, -, -, hdir, -⟩ := initOutputsGrantsAndPrograms.2 t m2 _ (hcfg ▸ h)
    (sized_of_dir_length hs hcfg (by rw [heq]) (by rw [heq]) hlen) (exec_mapped_mono ht hm) rfl
  refine ⟨u, hu, by rw [hequ], by rw [hequ, ← hclaimed], fun l hl hline => ?_⟩
  have hnot : (t.accepted m2).getLsbD l.vbit = false := by
    simp [State.accepted, hinputs, hline]
  rw [claim_line_direction (dirbit := true) (hcfg ▸ h) hdir (hcfg ▸ hl)]
  exact if_neg (Bool.eq_false_iff.1 hnot)

end Sys2Proof
end

section
/-! SUPPORT. The timing engine (43_timing.md): the active profile, the counter between two points of a wait (R170,
R171), the four paths of a sleep (R178, R180), and the start of the engine (R172, R173). -/

namespace Sys2Proof.Machine

theorem State.profile_of_getElem? {s : State} {p : Profile} (h : s.cfg.profiles[s.active]? = some p) :
    s.profile = p := by
  simp [State.profile, h]

/-- R10 clause 5: a jitter allowance fits RESULT. -/
theorem jitterNs_lt {cfg : Cfg} (h : cfg.wellFormed = true) {p : Profile} (hp : p ∈ cfg.profiles) :
    p.jitterNs < 2 ^ 32 := by
  obtain ⟨-, -, -, -, hprofiles, -⟩ := (Cfg.wellFormed_iff_clauses cfg).1 h
  obtain ⟨-, -, -, -, hall⟩ := (Cfg.profilesOk_iff cfg).1 hprofiles
  exact (hall p hp).2.2

/-- R171: one tick is one microsecond of the hidden time. -/
theorem counterValue_eq (s : State) : counterValue s = BitVec.ofNat 32 (s.phase0 + s.time / 1000) := rfl

theorem osSleep_time_le (r : Nat) (s : State) : s.time + r ≤ (osSleep r s).time := Nat.le_add_right _ _

theorem osSleep_trace (r : Nat) (s : State) : (osSleep r s).trace = s.trace ++ [.osSleep r] := rfl

/-- Across a wait of fewer than 2^32 ticks the counter's difference is the ticks gone by, wrap or none (R170,
R171). -/
theorem Waited.counterValue_sub {s t : State} (h : Waited s t) (hlt : t.time / 1000 < s.time / 1000 + 2 ^ 32) :
    (counterValue t - counterValue s).toNat = t.time / 1000 - s.time / 1000 := by
  have hphase : t.phase0 = s.phase0 := by rw [h.eq]
  have hticks : s.time / 1000 ≤ t.time / 1000 := Nat.div_le_div_right h.time
  rw [counterValue_eq, counterValue_eq, hphase, BitVec.toNat_sub, BitVec.toNat_ofNat, BitVec.toNat_ofNat]
  omega

theorem sleepBody_counter_long {s : State} {d : Nat} (hc : s.counterOk = true)
    (hd : s.profile.jitterNs + s.cfg.minSleepNs < d) : sleepBody d s = measuredSleep d s := by
  rw [sleepBody, if_pos hc, if_pos hd]

theorem sleepBody_counter_short {s : State} {d : Nat} (hc : s.counterOk = true)
    (hd : d ≤ s.profile.jitterNs + s.cfg.minSleepNs) : sleepBody d s = busyWait d s := by
  rw [sleepBody, if_pos hc, if_neg hd.not_gt]

theorem sleepBody_noCounter_long {s : State} {d : Nat} (hc : s.counterOk = false)
    (hd : s.cfg.ncThresholdNs < d) : sleepBody d s = osSleep (d - s.cfg.ncOverheadNs) s := by
  rw [sleepBody, if_neg (Bool.eq_false_iff.1 hc), if_pos hd]

theorem sleepBody_noCounter_short {s : State} {d : Nat} (hc : s.counterOk = false)
    (hd : d ≤ s.cfg.ncThresholdNs) : sleepBody d s = busyWait d s := by
  rw [sleepBody, if_neg (Bool.eq_false_iff.1 hc), if_neg hd.not_gt]

theorem exec_sleepNanos_of_timerInit {s : State} (h : s.timerInit = true) (d : Word) :
    exec (.sleepNanos d) s = .next (sleepBody d.toNat s) := needTimer_true h

theorem exec_jitterAllowance_of_timerInit {s : State} (h : s.timerInit = true) :
    exec .jitterAllowance s = .next (setResult (BitVec.ofNat 32 s.profile.jitterNs) s) := needTimer_true h

/-- R172: a started engine is not started again. -/
theorem exec_timerInit_of_started {s : State} (h : s.timerInit = true) :
    exec .timerInit s = .next (setResult 0#32 s) :=
  congrArg (fun t => Host.Outcome.next (setResult 0#32 t)) (if_pos h)

theorem exec_timerInit_of_unstarted {s : State} (h : s.timerInit = false) :
    exec .timerInit s = .next (setResult 0#32 (timerStartup s)) :=
  congrArg (fun t => Host.Outcome.next (setResult 0#32 t)) (if_neg (Bool.eq_false_iff.1 h))

theorem idFileRead_waited (s : State) : Waited s (idFileRead s) := (setEnv_waited _ _).trans (emit_waited _ _)

theorem Waited.startTimer {s t : State} (h : Waited s t) (d : Detected) :
    Waited (Machine.startTimer d s) (Machine.startTimer d t) :=
  ⟨by rw [h.eq]; rfl, h.time⟩

/-- Beside the engine's own fields its start only waits (R172). -/
theorem timerStartup_waited (s : State) :
    Waited (startTimer (detection s.cfg s.env.idFile) s) (timerStartup s) :=
  ((idFileRead_waited s).startTimer _).trans ((osHint_waited .rtThrottle s.cfg.rtLimit _).trans
    (osHint_waited .governor s.cfg.perfCore _))

/-- The draws left once the identification file has been read. -/
def Env.afterIdFile (e : Env) : Env := e.tookIdFile.tookElapse

/-- The draws left once a hint has been given. -/
def Env.afterHint (e : Env) : Env := e.tookHintOutcome.tookElapse

/-- The events of the start of the timing engine, each with its draw (R172, R173). -/
theorem timerStartup_trace (s : State) : (timerStartup s).trace = s.trace ++
    [.idFileRead s.env.idFile, .osHint .rtThrottle s.env.afterIdFile.hintOutcome,
     .osHint .governor s.env.afterIdFile.afterHint.hintOutcome] := by
  simp [timerStartup, osHint, idFileRead, Env.afterIdFile, Env.afterHint]

theorem Env.idFile_of_cons {e : Env} {c : Option Content} {rest : List (Option Content)}
    (h : e.idFiles = c :: rest) : e.idFile = c := by
  rw [Env.idFile, h, List.headD_cons]

theorem Env.hintOutcome_of_cons {e : Env} {o : Status} {rest : List Status} (h : e.hintOutcomes = o :: rest) :
    e.hintOutcome = o := by
  rw [Env.hintOutcome, h, List.headD_cons]

/-- Reading the identification file takes no hint's outcome. -/
theorem Env.afterIdFile_hintOutcomes (e : Env) : e.afterIdFile.hintOutcomes = e.hintOutcomes := rfl

theorem Env.afterHint_hintOutcomes (e : Env) : e.afterHint.hintOutcomes = e.hintOutcomes.tail := rfl

end Sys2Proof.Machine
end

section
/-! CERTIFICATE. The statements of 43_timing.md: the start of the timing engine, the sleep's four paths, the
counter across a sleep, and the jitter allowance. -/

namespace Sys2Proof

open Machine

/-- Settles O42: the start of the engine waits, and its fields do not depend on the waiting. -/
theorem timerInitChoosesTheForcedProfile : Obligations.TimerInitChoosesTheForcedProfile := by
  refine ⟨fun s h => exec_timerInit_of_started h, fun s h => ?_⟩
  have hw := timerStartup_waited s
  refine ⟨_, s.env.idFile, _, _, exec_timerInit_of_unstarted h, ?_, hw.time, ?_, timerStartup_trace s,
    fun c rest hc => Env.idFile_of_cons hc, fun a b rest hab => ⟨?_, ?_⟩⟩
  · rw [hw.eq]
    rfl
  · rw [hw.eq]
    rfl
  · exact Env.hintOutcome_of_cons (s.env.afterIdFile_hintOutcomes.trans hab)
  · apply Env.hintOutcome_of_cons (rest := rest)
    rw [Env.afterHint_hintOutcomes, Env.afterIdFile_hintOutcomes, hab, List.tail_cons]

/-- Settles O44: one clause for each path of `sleepBody`. -/
theorem sleepFollowsItsPath : Obligations.SleepFollowsItsPath := by
  refine ⟨fun s d h => needTimer_false h, fun s d p h hp => ?_⟩
  obtain rfl : s.profile = p := State.profile_of_getElem? hp
  have hw := sleepBody_waited d.toNat s
  refine ⟨sleepBody d.toNat s, exec_sleepNanos_of_timerInit h d, hw.eq, hw.time, fun hc hd => ?_, fun hc hd => ?_,
    fun hc hd => ⟨?_, ?_⟩, fun hc hd => ?_⟩
  · rw [sleepBody_counter_long hc hd]
    obtain ⟨T, hstart, hend, -, htrace⟩ := measuredSleep_spec d.toNat s
    exact ⟨T, _, _, _, hstart, hend, BitVec.toNat_ofNat _ _, BitVec.toNat_ofNat _ _, rfl, htrace⟩
  · rw [sleepBody_counter_short hc hd, busyWait_trace]
  · rw [sleepBody_noCounter_long hc hd, osSleep_trace]
  · rw [sleepBody_noCounter_long hc hd]
    exact osSleep_time_le _ s
  · rw [sleepBody_noCounter_short hc hd, busyWait_trace]

/-- Settles O43: the engine's fields are functions of the state without its draws, by the frame of O42. -/
theorem detectionNeverChoosesTheProfile : Obligations.DetectionNeverChoosesTheProfile := by
  intro s t u e ht hu
  cases h : s.timerInit with
  | true =>
    cases ht.symm.trans (exec_timerInit_of_started h)
    cases hu.symm.trans (exec_timerInit_of_started (s := { s with env := e }) h)
    rfl
  | false =>
    obtain ⟨t', -, -, -, ht', heqt, -⟩ := timerInitChoosesTheForcedProfile.2 s h
    obtain ⟨u', -, -, -, hu', hequ, -⟩ := timerInitChoosesTheForcedProfile.2 { s with env := e } h
    cases ht.symm.trans ht'
    cases hu.symm.trans hu'
    rw [hequ, heqt]

/-- Settles O45: both events wait, so the counter's difference is the ticks between. -/
theorem counterCannotRunBehindASleep : Obligations.CounterCannotRunBehindASleep := by
  rintro s t r rfl
  have hread : Waited s (counterRead s) := emit_waited _ _
  have hw : Waited s (osSleep r (counterRead s)) := hread.trans (emit_waited _ _)
  have htime : s.time + r ≤ (osSleep r (counterRead s)).time :=
    (Nat.add_le_add_right hread.time r).trans (osSleep_time_le r _)
  refine ⟨htime, rfl, ?_, counterValue_eq _, by omega, hw.counterValue_sub⟩
  simp [osSleep, counterRead, counterValue_eq]

/-- Settles O46: R10 bounds the allowance, so RESULT holds it unreduced. -/
theorem jitterAllowanceAnswersTheActiveProfile : Obligations.JitterAllowanceAnswersTheActiveProfile := by
  refine ⟨fun s h => needTimer_false h, fun s p hwf h hp => ?_⟩
  obtain rfl : s.profile = p := State.profile_of_getElem? hp
  have hlt : s.profile.jitterNs < 2 ^ 32 := jitterNs_lt hwf (List.mem_of_getElem? hp)
  exact ⟨_, (BitVec.toNat_ofNat _ _).trans (Nat.mod_eq_of_lt hlt), exec_jitterAllowance_of_timerInit h⟩

end Sys2Proof
end

section
/-! SUPPORT. One inversion of `firstFault` (R215), and the commands of the pulser: where a check fails, where all
hold, and the parts of a pulse between commands (R200 to R202). -/

namespace Sys2Proof.Machine

/-! The first check that fails (R215). -/

/-- The checks before one of R215 hold in `s`, and that one fails with its code and information (R210). -/
inductive FirstFailed (i : Instr) (s : State) : BitVec 8 → BitVec 64 → Prop
  | mapped (hi : needsBankTable i = true) (hm : s.mapped = false) : FirstFailed i s 0x02#8 (encode i)
  | timer (hm : needsBankTable i = true → s.mapped = true) (hi : needsTimer i = true)
      (ht : s.timerInit = false) : FirstFailed i s 0x03#8 (encode i)
  | pulser {k : BitVec 8} (hm : needsBankTable i = true → s.mapped = true)
      (ht : needsTimer i = true → s.timerInit = true) (hi : pulseIndexOf i = some k) (hp : s.pulser = none) :
      FirstFailed i s 0x04#8 (encode i)
  | index {k : BitVec 8} {p : Pulser} (hm : needsBankTable i = true → s.mapped = true)
      (ht : needsTimer i = true → s.timerInit = true) (hi : pulseIndexOf i = some k) (hp : s.pulser = some p)
      (hk : p.count.toNat ≤ k.toNat) : FirstFailed i s 0x05#8 (k.setWidth 64)
  | width {k : BitVec 8} {p : Pulser} (hm : needsBankTable i = true → s.mapped = true)
      (ht : needsTimer i = true → s.timerInit = true) (hi : pulseIndexOf i = some k) (hp : s.pulser = some p)
      (hk : k.toNat < p.count.toNat) (hneed : needsPulseWidth i = true)
      (hw : p.widths.getD k.toNat none = none) : FirstFailed i s 0x06#8 (k.setWidth 64)

/-- A check that did not fail found what the command needs. -/
theorem holds_of_check_passed {needs holds : Bool} (h : ¬(needs && !holds) = true) (hn : needs = true) :
    holds = true := by
  simpa [hn] using h

/-- What `firstFault` reports is the first of the checks that fails. -/
theorem firstFault_cases {i : Instr} {s : State} {code : BitVec 8} {info : BitVec 64}
    (h : firstFault i s = some (code, info)) : FirstFailed i s code info := by
  unfold firstFault at h
  split at h
  next hm =>
    cases h
    obtain ⟨hi, hm⟩ := Bool.and_eq_true_iff.1 hm
    exact .mapped hi (Bool.not_eq_true' _ ▸ hm)
  next hm =>
  split at h
  next ht =>
    cases h
    obtain ⟨hi, ht⟩ := Bool.and_eq_true_iff.1 ht
    exact .timer (holds_of_check_passed hm) hi (Bool.not_eq_true' _ ▸ ht)
  next ht =>
  split at h
  next => cases h
  next k hi =>
  split at h
  next hp =>
    cases h
    exact .pulser (holds_of_check_passed hm) (holds_of_check_passed ht) hi hp
  next p hp =>
  split at h
  next hk =>
    cases h
    exact .index (holds_of_check_passed hm) (holds_of_check_passed ht) hi hp hk
  next hk =>
  split at h
  next hw =>
    cases h
    obtain ⟨hneed, hw⟩ := Bool.and_eq_true_iff.1 hw
    exact .width (holds_of_check_passed hm) (holds_of_check_passed ht) hi hp (Nat.lt_of_not_le hk) hneed
      (Option.isNone_iff_eq_none.1 hw)
  next => cases h

/-! The commands of the pulser where a check fails. -/

section
variable {s : State} {k code : BitVec 8} {info : BitVec 64}

/-- PULSER_SET_WIDTH makes checks 3, 5 and 6 (R201). -/
theorem exec_pulserSetWidth_of_firstFault {n : Word}
    (h : firstFault (.pulserSetWidth k n) s = some (code, info)) :
    exec (.pulserSetWidth k n) s = .next { s with fault := code, faultInfo := info } := by
  rw [exec, execPulserSetWidth]
  cases firstFault_cases h with
  | mapped _ hm => exact needMapped_false hm
  | timer _ hi _ => cases hi
  | pulser hm _ _ hp =>
    rw [needMapped_true (hm rfl)]
    exact needPulser_none hp
  | index hm _ hi hp hk =>
    cases hi
    rw [needMapped_true (hm rfl), needPulser_some hp]
    exact needIndex_ge hk
  | width _ _ _ _ _ hneed _ => cases hneed

/-- SEND_PULSE makes checks 3 to 7 (R202). -/
theorem exec_sendPulse_of_firstFault (h : firstFault (.sendPulse k) s = some (code, info)) :
    exec (.sendPulse k) s = .next { s with fault := code, faultInfo := info } := by
  rw [exec, execSendPulse]
  cases firstFault_cases h with
  | mapped _ hm => exact needMapped_false hm
  | timer hm _ ht =>
    rw [needMapped_true (hm rfl)]
    exact needTimer_false ht
  | pulser hm ht _ hp =>
    rw [needMapped_true (hm rfl), needTimer_true (ht rfl)]
    exact needPulser_none hp
  | index hm ht hi hp hk =>
    cases hi
    rw [needMapped_true (hm rfl), needTimer_true (ht rfl), needPulser_some hp]
    exact needIndex_ge hk
  | width hm ht hi hp hk _ hw =>
    cases hi
    rw [needMapped_true (hm rfl), needTimer_true (ht rfl), needPulser_some hp, needIndex_lt hk]
    exact needWidth_none hw

end

/-! The commands of the pulser where every check holds. -/

theorem exec_pulserAcquire_of_mapped {s : State} (hm : s.mapped = true) (k : BitVec 8) (m : Word) :
    exec (.pulserAcquire k m) s = .next (setPulser ⟨m, k, List.replicate k.toNat none⟩ s) := needMapped_true hm

theorem exec_pulserSetWidth_of_checks {s : State} {k : BitVec 8} {p : Pulser} (hm : s.mapped = true)
    (hp : s.pulser = some p) (hk : k.toNat < p.count.toNat) (n : Word) :
    exec (.pulserSetWidth k n) s = .next (setPulser (p.setWidth k.toNat n) s) := by
  rw [exec, execPulserSetWidth, needMapped_true hm, needPulser_some hp, needIndex_lt hk]

theorem exec_sendPulse_of_checks {s : State} {k : BitVec 8} {p : Pulser} {w : Word} (hm : s.mapped = true)
    (ht : s.timerInit = true) (hp : s.pulser = some p) (hk : k.toNat < p.count.toNat)
    (hw : p.widths.getD k.toNat none = some w) :
    exec (.sendPulse k) s = .next (pulseBody p.mask (calibrated s.cfg w.toNat) ⟨s, false⟩).final := by
  rw [exec, execSendPulse, needMapped_true hm, needTimer_true ht, needPulser_some hp, needIndex_lt hk,
    needWidth_some hw, runBody_eq]

/-! The parts of a pulse between commands (R202). -/

/-- R10 clause 8: a calibrated width is an operand of SLEEP_NANOS. -/
theorem toNat_ofNat_calibrated {cfg : Cfg} (h : cfg.wellFormed = true) (w : Word) :
    (BitVec.ofNat 32 (calibrated cfg w.toNat)).toNat = calibrated cfg w.toNat := by
  obtain ⟨-, -, -, -, -, -, -, hcal⟩ := Cfg.wellFormed_clauses h
  exact (BitVec.toNat_ofNat _ _).trans (Nat.mod_eq_of_lt ((Cfg.calibrationOk_iff cfg).1 hcal _ w.isLt))

/-- What a set, a clear and a wait may move when they start and end between commands: data latches, the gate
field, the memo and the history (R134, R135, R178). -/
structure LatchesMoved (s t : State) : Prop where
  eq : t = { s with data := t.data, clk := t.clk, memo := t.memo, trace := t.trace, time := t.time, env := t.env }
  dataLen : t.data.length = s.data.length

section
variable {s t u : State}

theorem LatchesMoved.trans (h : LatchesMoved s t) (k : LatchesMoved t u) : LatchesMoved s u :=
  ⟨k.eq.trans (by rw [h.eq]), k.dataLen.trans h.dataLen⟩

theorem Waited.latchesMoved (h : Waited s t) : LatchesMoved s t := ⟨by rw [h.eq], by rw [h.eq]⟩

theorem LatchesMoved.cfg (h : LatchesMoved s t) : t.cfg = s.cfg := by rw [h.eq]

theorem LatchesMoved.mapped (h : LatchesMoved s t) : t.mapped = s.mapped := by rw [h.eq]

theorem LatchesMoved.timerInit (h : LatchesMoved s t) : t.timerInit = s.timerInit := by rw [h.eq]

theorem LatchesMoved.sized (h : LatchesMoved s t) (hs : s.Sized) : t.Sized := by
  rw [State.Sized, h.dataLen, h.eq]
  exact hs

theorem LatchesMoved.quiet (h : LatchesMoved s t) (hq : s.Quiet) : t.Quiet := by
  rw [State.Quiet, h.eq]
  exact hq

end

/-- A set or clear completes between commands with its pair in the memo (R134 to R136). -/
theorem applyBits_latchesMoved {s : State} (h : s.cfg.wellFormed = true) (hs : s.Sized) (hq : s.Quiet) (m : Word)
    (pol : Polarity) :
    ∃ r, applyBits m pol ⟨s, false⟩ = .ok () r ∧ LatchesMoved s r.st ∧ r.st.memo = some ⟨m, pol⟩ := by
  obtain ⟨r, hok, heq, hlen⟩ := applyBits_any h hs hq m pol
  have hmemo : r.st.memo = some ⟨m, pol⟩ := by rw [heq]
  exact ⟨r, hok, ⟨by rw [hmemo]; exact heq, hlen⟩, hmemo⟩

/-- A pulse whose clear completes ends as a set that starts a command of its own after the wait does: the gate
write of the clear spares it nothing (R202, R60). -/
theorem pulseBody_final_of_clear {s : State} {m : Word} {d : Nat} {r : Run}
    (h : (sleepBody d r.st).cfg.wellFormed = true) (hok : applyBits m .clear ⟨s, false⟩ = .ok () r) :
    (pulseBody m d ⟨s, false⟩).final = (applyBits m .set ⟨sleepBody d r.st, false⟩).final := by
  rw [pulseBody, hok, Res.bind_ok]
  exact applyBits_gated h m .set r.gated

end Sys2Proof.Machine
end

section
/-! CERTIFICATE. The statements of 44_pulser.md: acquiring the pulser, setting a width, and the pulse. -/

namespace Sys2Proof

open Machine

/-- Settles O47: check 3 and then `setPulser`. -/
theorem pulserAcquireReplacesThePulser : Obligations.PulserAcquireReplacesThePulser :=
  fun _ k m => ⟨fun hm => needMapped_false hm, fun hm => exec_pulserAcquire_of_mapped hm k m⟩

/-- Settles O48: the widths are those before with one entry replaced. -/
theorem pulserSetWidthSetsOneEntry : Obligations.PulserSetWidthSetsOneEntry := by
  refine ⟨fun _ _ _ _ _ h => exec_pulserSetWidth_of_firstFault h, fun s k n p hm hp hk hlen => ?_⟩
  refine ⟨p.widths.set k.toNat (some n), exec_pulserSetWidth_of_checks hm hp hk n, List.length_set,
    List.getElem?_set_self (hlen ▸ hk), fun j hj => List.getElem?_set_ne hj.symm⟩

/-- Settles O49: the clear and the set complete between commands, and the wait leaves what they need. -/
theorem sendPulseIsClearSleepSet : Obligations.SendPulseIsClearSleepSet := by
  refine ⟨fun _ _ _ _ h => exec_sendPulse_of_firstFault h, fun s k p w h hs hq hm ht hp hk hw => ?_⟩
  have hwidth : p.widths.getD k.toNat none = some w := by simp [List.getD_eq_getElem?_getD, hw]
  set d := calibrated s.cfg w.toNat
  obtain ⟨ra, hclear, hsa, -⟩ := applyBits_latchesMoved h hs hq p.mask .clear
  have hsb : LatchesMoved s (sleepBody d ra.st) := hsa.trans (sleepBody_waited d ra.st).latchesMoved
  have hwf : (sleepBody d ra.st).cfg.wellFormed = true := hsb.cfg ▸ h
  obtain ⟨rt, hset, hbt, hmemo⟩ := applyBits_latchesMoved hwf (hsb.sized hs) (hsb.quiet hq) p.mask .set
  refine ⟨ra.st, sleepBody d ra.st, rt.st, ?_, ?_, ?_, ?_, ?_⟩
  · exact (exec_bitsInstr hm .clear p.mask).trans (by rw [hclear, Res.final_ok])
  · refine (exec_sleepNanos_of_timerInit (hsa.timerInit.trans ht) _).trans ?_
    rw [← calibrated, toNat_ofNat_calibrated h]
  · exact (exec_bitsInstr (hsb.mapped.trans hm) .set p.mask).trans (by rw [hset, Res.final_ok])
  · rw [exec_sendPulse_of_checks hm ht hp hk hwidth, pulseBody_final_of_clear hwf hclear, hset, Res.final_ok]
  · rw [← hmemo]
    exact (hsb.trans hbt).eq

end Sys2Proof
end

section
/-! SUPPORT. Faults: a faulted block (R213), the checks of R215 command by command where one fails and where none
does, and that a command whose checks hold raises no fault (R214). -/

namespace Sys2Proof.Machine

/-! A block with a fault (R213). -/

/-- Check 1 of R215: a block with a fault takes no command; only the configuration is looked at before. -/
theorem admission_of_fault {s : State} (hfault : s.fault ≠ 0#8) :
    (∃ why, admission s = .refuse why) ∨ admission s = .stuck := by
  simp only [admission, if_pos hfault]
  split
  · exact .inl ⟨_, rfl⟩
  split
  · exact .inl ⟨_, rfl⟩
  · exact .inr rfl

/-- Under an admitted configuration a block with a fault is stuck. -/
theorem admission_stuck {s : State} (hwf : s.cfg.wellFormed = true) (hspace : s.cfg.inAddressSpace = true)
    (hfault : s.fault ≠ 0#8) : admission s = .stuck := by
  simp [admission, hwf, hspace, hfault]

/-- A stuck block takes no step. -/
theorem step_of_admission_stuck {s : State} (h : admission s = .stuck) : step s = .fault (.stuck s.fault) := by
  simp only [step, h]

/-- Only a block without fault takes a step. -/
theorem fault_eq_zero_of_step {s t : State} (h : step s = .next t) : s.fault = 0#8 := by
  by_contra hfault
  rcases admission_of_fault hfault with ⟨why, ha⟩ | ha
  · rw [step_of_admission_refuse ha] at h
    cases h
  · rw [step_of_admission_stuck ha] at h
    cases h

@[simp] theorem advance_fault (s : State) : (advance s).fault = s.fault := by
  unfold advance
  split <;> rfl

/-- After a fault the position is held (R23, R212). -/
theorem advance_of_fault {s : State} (h : s.fault ≠ 0#8) : advance s = s := if_neg h

/-! A check of R215 that fails. -/

section
variable {i : Instr} {s : State}

/-- Check 3 of R215, the first of every command that makes it. -/
theorem exec_of_unmapped (hi : needsBankTable i = true) (hm : s.mapped = false) :
    exec i s = .next { s with fault := 0x02#8, faultInfo := encode i } := by
  cases i with
  | init | timerInit | sleepNanos | jitterAllowance => cases hi
  | _ => exact needMapped_false hm

/-- Check 4 of R215, after check 3 where the command makes both. -/
theorem exec_of_timerOff (hm : needsBankTable i = true → s.mapped = true) (hi : needsTimer i = true)
    (ht : s.timerInit = false) : exec i s = .next { s with fault := 0x03#8, faultInfo := encode i } := by
  cases i with
  | sleepNanos ns => exact needTimer_false ht
  | jitterAllowance => exact needTimer_false ht
  | sendPulse k => exact (needMapped_true (hm rfl)).trans (needTimer_false ht)
  | _ => cases hi

/-- The two commands that make checks 5 and 6 of R215 report the first check that fails (R201, R202). -/
theorem exec_of_firstFault_of_pulseIndex {k code : BitVec 8} {info : BitVec 64} (hi : pulseIndexOf i = some k)
    (h : firstFault i s = some (code, info)) : exec i s = .next { s with fault := code, faultInfo := info } := by
  cases i with
  | pulserSetWidth k n => exact exec_pulserSetWidth_of_firstFault h
  | sendPulse k => exact exec_sendPulse_of_firstFault h
  | _ => cases hi

/-- Every command reports the first check that fails, and writes nothing else (R215, R212). -/
theorem exec_of_firstFault {code : BitVec 8} {info : BitVec 64} (h : firstFault i s = some (code, info)) :
    exec i s = .next { s with fault := code, faultInfo := info } := by
  cases firstFault_cases h with
  | mapped hi hm => exact exec_of_unmapped hi hm
  | timer hm hi ht => exact exec_of_timerOff hm hi ht
  | pulser _ _ hi | index _ _ hi | width _ _ hi => exact exec_of_firstFault_of_pulseIndex hi h

/-! The checks of R215 where none fails. -/

/-- Checks 3 to 7 of R215 hold in `s` for the command, so far as it makes them. -/
structure ChecksPassed (i : Instr) (s : State) : Prop where
  mapped : needsBankTable i = true → s.mapped = true
  timer : needsTimer i = true → s.timerInit = true
  pulser : ∀ k, pulseIndexOf i = some k → ∃ p, s.pulser = some p ∧ k < p.count ∧
    (needsPulseWidth i = true → ∃ w, p.width k.toNat = some w)

/-- `firstFault` reports nothing only where every check holds. -/
theorem checksPassed_of_firstFault_none (h : firstFault i s = none) : ChecksPassed i s := by
  unfold firstFault at h
  split at h
  next => cases h
  next hm =>
  split at h
  next => cases h
  next ht =>
  refine ⟨holds_of_check_passed hm, holds_of_check_passed ht, fun k hi => ?_⟩
  simp only [hi] at h
  split at h
  next => cases h
  next p hp =>
  split at h
  next => cases h
  next hk =>
  split at h
  next => cases h
  next hw =>
  refine ⟨p, hp, Nat.lt_of_not_le hk, fun hneed => Option.ne_none_iff_exists'.1 fun hnone => hw ?_⟩
  rw [hneed, ← Pulser.width, hnone]
  rfl

/-- Where every check holds the body of the command runs (R215). -/
theorem exec_of_checksPassed (h : ChecksPassed i s) : ∃ t, exec i s = .next t ∧ BodyRan s i t := by
  obtain ⟨hm, ht, hpulser⟩ := h
  cases i with
  | init => exact ⟨_, rfl, .init⟩
  | timerInit => exact ⟨_, rfl, .timerInit⟩
  | initOutputs m => exact ⟨_, needMapped_true (hm rfl), .initOutputs m (hm rfl)⟩
  | requestInputs m => exact ⟨_, needMapped_true (hm rfl), .requestInputs m (hm rfl)⟩
  | readAll => exact ⟨_, needMapped_true (hm rfl), .readAll (hm rfl)⟩
  | setBits m => exact ⟨_, needMapped_true (hm rfl), .setBits m (hm rfl)⟩
  | clearBits m => exact ⟨_, needMapped_true (hm rfl), .clearBits m (hm rfl)⟩
  | flush => exact ⟨_, needMapped_true (hm rfl), .flush (hm rfl)⟩
  | sleepNanos ns => exact ⟨_, exec_sleepNanos_of_timerInit (ht rfl) ns, .sleepNanos ns (ht rfl)⟩
  | jitterAllowance => exact ⟨_, exec_jitterAllowance_of_timerInit (ht rfl), .jitterAllowance (ht rfl)⟩
  | pulserAcquire k m => exact ⟨_, exec_pulserAcquire_of_mapped (hm rfl) k m, .pulserAcquire k m (hm rfl)⟩
  | pulserSetWidth k n =>
    obtain ⟨p, hp, hk, -⟩ := hpulser k rfl
    exact ⟨_, exec_pulserSetWidth_of_checks (hm rfl) hp hk n, .pulserSetWidth k n (hm rfl) hp hk⟩
  | sendPulse k =>
    obtain ⟨p, hp, hk, hwidth⟩ := hpulser k rfl
    obtain ⟨w, hw⟩ := hwidth rfl
    exact ⟨_, exec_sendPulse_of_checks (hm rfl) (ht rfl) hp hk hw, .sendPulse k (hm rfl) (ht rfl) hp hk hw⟩

end

/-! A command whose checks hold (R214). -/

/-- The fault registers of a state that an equation gives with those of `s`. -/
theorem faults_of_eq {s t u : State} (h : t = u) (hfault : u.fault = s.fault) (hinfo : u.faultInfo = s.faultInfo) :
    t.fault = s.fault ∧ t.faultInfo = s.faultInfo := h ▸ ⟨hfault, hinfo⟩

theorem LatchesMoved.faults {s t : State} (h : LatchesMoved s t) : t.fault = s.fault ∧ t.faultInfo = s.faultInfo :=
  faults_of_eq h.eq rfl rfl

section
variable {s t : State}

/-- A set or clear between commands, by the state it leaves (R134, R135). -/
theorem applyBits_final_latchesMoved (h : s.cfg.wellFormed = true) (hs : s.Sized) (hq : s.Quiet) (m : Word)
    (pol : Polarity) : LatchesMoved s (applyBits m pol ⟨s, false⟩).final := by
  obtain ⟨r, hok, hmoved, -⟩ := applyBits_latchesMoved h hs hq m pol
  rw [hok]
  exact hmoved

/-- A pulse is a clear, a wait and a set, each of which starts and ends between commands (R202). -/
theorem pulseBody_latchesMoved (h : s.cfg.wellFormed = true) (hs : s.Sized) (hq : s.Quiet) (m : Word) (d : Nat) :
    LatchesMoved s (pulseBody m d ⟨s, false⟩).final := by
  obtain ⟨r, hclear, hcleared, -⟩ := applyBits_latchesMoved h hs hq m .clear
  have hwaited : LatchesMoved s (sleepBody d r.st) := hcleared.trans (sleepBody_waited d r.st).latchesMoved
  have hwf : (sleepBody d r.st).cfg.wellFormed = true := hwaited.cfg ▸ h
  rw [pulseBody_final_of_clear hwf hclear]
  exact hwaited.trans (applyBits_final_latchesMoved hwf (hwaited.sized hs) (hwaited.quiet hq) m .set)

/-- Between commands no body raises a fault: the gate is written before each bank access, every access lies in
its window, and no entry is mixed (R210, R214). -/
theorem BodyRan.faults {i : Instr} (hr : BodyRan s i t) (h : s.cfg.wellFormed = true) (hs : s.Sized)
    (hq : s.Quiet) : t.fault = s.fault ∧ t.faultInfo = s.faultInfo := by
  cases i with
  | init =>
    cases hr
    exact Prod.mk.inj (init_faults rfl)
  | timerInit =>
    cases hr
    exact Prod.mk.inj (timerInit_faults rfl)
  | initOutputs m => exact faults_of_eq (initOutputs_granted h hs hr).eq rfl rfl
  | requestInputs m => exact faults_of_eq (requestInputs_granted h hs hr).eq rfl rfl
  | readAll =>
    cases hr with
    | readAll hm =>
    obtain ⟨u, x, hu, heq, -⟩ := exec_readAll_ok h hm
    cases (needMapped_true hm).symm.trans hu
    exact faults_of_eq heq rfl rfl
  | setBits m =>
    cases hr
    exact (applyBits_final_latchesMoved h hs hq m .set).faults
  | clearBits m =>
    cases hr
    exact (applyBits_final_latchesMoved h hs hq m .clear).faults
  | flush =>
    cases hr
    rw [flushStep_quiet (r := ⟨s, false⟩) hq]
    exact ⟨rfl, rfl⟩
  | sleepNanos ns =>
    cases hr
    exact faults_of_eq (sleepBody_waited ns.toNat s).eq rfl rfl
  | jitterAllowance | pulserAcquire | pulserSetWidth =>
    cases hr
    exact ⟨rfl, rfl⟩
  | sendPulse k =>
    cases hr
    exact (pulseBody_latchesMoved h hs hq _ _).faults

/-- A step that ends with a fault raised a precise one and did nothing else: an illegal word, or a check that
failed (R214). -/
theorem checkFailed_of_step (hs : s.Inv) (h : step s = .next t) (hfault : t.fault ≠ 0#8) :
    CheckFailed s t := by
  have hclear : s.fault = 0#8 := fault_eq_zero_of_step h
  rcases step_cases h with rfl | ⟨w, rfl⟩ | ⟨i, u, ha, hu, rfl⟩
  · exact absurd hclear hfault
  · exact ⟨.illegalCommand, w, by decide, rfl⟩
  · rw [advance_fault] at hfault
    rcases exec_cases hu with hfailed | hr
    · rwa [advance_of_fault hfault]
    · obtain ⟨hkept, -⟩ := hr.faults (admission_run ha).1 hs.sized hs.quiet
      exact absurd (hkept.trans hclear) hfault

end

end Sys2Proof.Machine
end

section
/-! CERTIFICATE. The statements of 60_exceptions.md: precise faults, the order of the checks, the faulted block,
and the commands that need the bank table. -/

namespace Sys2Proof

open Machine

/-- Settles O16: such a step is one `raise` of a precise code. -/
theorem faultsArePrecise : Obligations.FaultsArePrecise := by
  intro s t hs h hfault
  obtain ⟨c, info, ⟨hlow, hhigh⟩, rfl⟩ := checkFailed_of_step hs h hfault
  exact ⟨rfl, hlow, hhigh⟩

/-- Settles O50: checks 1 and 2 by the admission, checks 3 to 7 command by command; a command whose checks hold
runs its body, which raises nothing. -/
theorem firstFailingCheckIsReported : Obligations.FirstFailingCheckIsReported := by
  refine ⟨fun s hwf hspace hfault => step_of_admission_stuck (admission_stuck hwf hspace hfault),
    fun s w why hwf hspace hfault hfetch hdecode => ?_, fun i s code info h => exec_of_firstFault h,
    fun i s hwf hs h => ?_⟩
  · exact step_of_admission_illegal (admission_of_illegal hwf hspace hfault hfetch hdecode)
  · obtain ⟨t, ht, hr⟩ := exec_of_checksPassed (checksPassed_of_firstFault_none h)
    exact ⟨t, ht, hr.faults hwf hs.sized hs.quiet⟩

/-- Settles O10: only a block without fault takes a step, and `State.boot` is one. -/
theorem faultedBlockTakesNoStep : Obligations.FaultedBlockTakesNoStep :=
  ⟨fun _ _ hfault h => hfault (fault_eq_zero_of_step h),
    fun _ hwf hspace hfault => step_of_admission_stuck (admission_stuck hwf hspace hfault),
    fun _ _ => ⟨rfl, rfl⟩⟩

/-- Settles O51: each of the nine commands makes check 3 first. -/
theorem commandsNeedTheBankTable : Obligations.CommandsNeedTheBankTable := by
  intro s m k hm i hi
  have hneed : ∀ j ∈ [Instr.initOutputs m, .requestInputs m, .readAll, .setBits m, .clearBits m, .flush,
      .pulserAcquire k m, .pulserSetWidth k m, .sendPulse k], needsBankTable j = true := by
    simp [needsBankTable]
  exact exec_of_unmapped (hneed i hi) hm

end Sys2Proof
end

section
/-! SUPPORT. The hazards of 70_reset_and_hazards.md through `exec`: the clock gate before the bank accesses of every
command, in every state (R250), the directions of claimed lines (R243), and the idle block (R241). -/

namespace Sys2Proof.Machine

/-! The clock gate (R60, R250). -/

/-- Events without a bank access need no clock gate. -/
theorem gatedSince_of_noBank {s t : State} {es : List Event} (hcfg : t.cfg = s.cfg)
    (htrace : t.trace = s.trace ++ es) (h : ∀ e ∈ es, isBankAccess s.cfg e = false) :
    GatedSince s.cfg s.trace t :=
  ⟨es, htrace, GateFirst_of_none h, hcfg⟩

/-- A change of state without an event keeps the gate first. -/
theorem GatedSince.of_trace_eq {cfg : Cfg} {tr : List Event} {s t : State} (h : GatedSince cfg tr s)
    (hcfg : t.cfg = s.cfg) (htrace : t.trace = s.trace) : GatedSince cfg tr t := by
  obtain ⟨es, hes, hfirst, hc⟩ := h
  exact ⟨es, htrace.trans hes, hfirst, hcfg.trans hc⟩

/-- A mapping attempt is no bank access (R101). -/
theorem mapEvents_noBank (cfg : Cfg) (o : Status) (ws : List Window) :
    ∀ e ∈ ws.map (mapEvent o), isBankAccess cfg e = false :=
  List.forall_mem_map.2 fun _ _ => rfl

/-- INIT maps windows and accesses no bank, whether it populates the table or not (R102, R103). -/
theorem initTable_gatedSince {s : State} (hm : s.mapped = false) : GatedSince s.cfg s.trace (initTable s) := by
  have hcfg : (initTable s).cfg = s.cfg := by rw [(initTable_frame s).1]
  rcases initTable_cases hm with ⟨-, -, -, htrace⟩ | ⟨-, -, k, w, -, htrace⟩
  · exact gatedSince_of_noBank hcfg htrace (mapEvents_noBank _ _ _)
  · rw [List.append_assoc] at htrace
    exact gatedSince_of_noBank hcfg htrace
      (List.forall_mem_append.2 ⟨mapEvents_noBank _ _ _, mapEvents_noBank _ _ [w]⟩)

/-- The start of the timing engine reads the identification file and gives its hints (R172). -/
theorem timerStartup_gatedSince (s : State) : GatedSince s.cfg s.trace (timerStartup s) :=
  gatedSince_of_noBank (by rw [(timerStartup_waited s).eq]; rfl) (timerStartup_trace s) (by simp [isBankAccess])

/-- A claim with the update of its claimed set (R131, R132). -/
theorem claim_update_gated (m : Word) (dirbit : Bool) (s : State) (update : State → State)
    (hcfg : ∀ u, (update u).cfg = u.cfg) (htrace : ∀ u, (update u).trace = u.trace) :
    GatedRes s.cfg s.trace
      ((claim m dirbit ⟨s, false⟩).bind fun _ r => .ok () { r with st := update r.st }) :=
  (claim_gated (GatedRun_start s) m dirbit).bind fun _ _ hr => hr.setState (htrace _) (hcfg _)

/-- The bulk read (R133). -/
theorem readAll_gated (s : State) : GatedRes s.cfg s.trace
    ((clockEnable ⟨s, false⟩).bind fun _ r => (readBanks (banksAscending r.st.cfg) 0#32 r).bind fun v r' =>
      .ok () { r' with st := setResult v r'.st }) :=
  (clockEnable_gated (GatedRun_start s)).bind fun _ _ hr =>
    (readBanks_gated hr _ _).bind fun _ _ hr' => hr'.setState rfl rfl

/-- A pulse: a clear, a wait and a set of one command, under one mark of the gate write (R202). -/
theorem pulseBody_gated (m : Word) (d : Nat) (s : State) :
    GatedRes s.cfg s.trace (pulseBody m d ⟨s, false⟩) :=
  (applyBits_gatedRes (GatedRun_start s) m .clear).bind fun _ _ hr => applyBits_gatedRes (hr.sleep d) m .set

/-- The body of every command writes the gate before its first bank access, from every state (R250). -/
theorem BodyRan.gatedSince {i : Instr} {s t : State} (hr : BodyRan s i t) : GatedSince s.cfg s.trace t := by
  have hstart := GatedRun_start s
  cases hr with
  | init =>
    cases hm : s.mapped with
    | true => exact hstart.since.of_trace_eq rfl rfl
    | false => exact initTable_gatedSince hm
  | initOutputs m => exact (claim_update_gated m true s (addOutputs _) (fun _ => rfl) fun _ => rfl).final
  | requestInputs m => exact (claim_update_gated m false s (addInputs _) (fun _ => rfl) fun _ => rfl).final
  | readAll => exact (readAll_gated s).final
  | setBits m => exact (applyBits_gatedRes hstart m .set).final
  | clearBits m => exact (applyBits_gatedRes hstart m .clear).final
  | flush => exact (flushStep_gated hstart).final
  | timerInit =>
    cases ht : s.timerInit with
    | true => exact hstart.since.of_trace_eq rfl rfl
    | false => exact (timerStartup_gatedSince s).of_trace_eq rfl rfl
  | sleepNanos ns => exact (hstart.sleep ns.toNat).since
  | jitterAllowance | pulserAcquire | pulserSetWidth => exact hstart.since.of_trace_eq rfl rfl
  | sendPulse => exact (pulseBody_gated _ _ s).final

/-- Whatever a command answers, the gate write came before its first bank access: a failed check performs no
event (R214, R250). -/
theorem exec_gatedSince {i : Instr} {s t : State} (h : exec i s = .next t) : GatedSince s.cfg s.trace t := by
  rcases exec_cases h with ⟨c, info, -, rfl⟩ | hr
  · exact (GatedRun_start s).since.of_trace_eq rfl rfl
  · exact hr.gatedSince

/-! Known directions (R243). -/

/-- Only the two claims write a claimed set or a direction register, and each programs what it grants (R130 to
R132). -/
theorem exec_directionsKnown {i : Instr} {s t : State} (h : s.cfg.wellFormed = true) (hsized : s.Sized)
    (hs : s.DirectionsKnown) (ht : exec i s = .next t) : t.DirectionsKnown := by
  rcases exec_cases ht with ⟨c, info, -, rfl⟩ | hr
  · exact hs
  cases i with
  | initOutputs m => exact (initOutputs_granted h hsized hr).directionsKnown h hs
  | requestInputs m => exact (requestInputs_granted h hsized hr).directionsKnown h hs
  | _ => rw [(exec_framed ht).eq]; exact hs

/-! The idle block (R241). -/

/-- With check 1 of R215 passed and no command issued, the block is idle. -/
theorem admission_idle {s : State} (hwf : s.cfg.wellFormed = true) (hspace : s.cfg.inAddressSpace = true)
    (hfault : s.fault = 0#8) (hfetch : s.program[s.position]? = none) : admission s = .idle := by
  simp [admission, fetch, hwf, hspace, hfault, hfetch]

/-- An idle block stays as it is (log 5). -/
theorem step_of_admission_idle {s : State} (h : admission s = .idle) : step s = .next s := by
  simp only [step, h]

end Sys2Proof.Machine
end

section
/-! CERTIFICATE. The statements of 70_reset_and_hazards.md: the clock gate before every bank access, the known
directions of claimed lines, and the block that waits for a command. -/

namespace Sys2Proof

open Machine

/-- Settles O22: by `exec_gatedSince`, the command's own events are those since the trace it found. -/
theorem clockGatePrecedesEveryBankAccess : Obligations.ClockGatePrecedesEveryBankAccess := by
  intro i s t h
  obtain ⟨es, htrace, hfirst, -⟩ := exec_gatedSince h
  exact ⟨es, htrace, hfirst⟩

/-- Settles O56: a claim grants only lines in neither set, so no line's known direction is programmed again, and
this needs no disjointness of the sets. -/
theorem claimedDirectionsAreKnown : Obligations.ClaimedDirectionsAreKnown :=
  fun _ _ _ h hsized _ hs ht => exec_directionsKnown h hsized hs ht

/-- Settles O12: the admission finds no word, and `step` answers the state itself. -/
theorem blockWithoutACommandWaits : Obligations.BlockWithoutACommandWaits :=
  fun _ hwf hspace hfault hfetch => step_of_admission_idle (admission_idle hwf hspace hfault hfetch)

end Sys2Proof
end
